-- ==== Sys2Proof/Word.lean ====
section
/-! DEFINITION. The word types of the device and the plain names its rules speak of: layers, control blocks, slots,
directions, windows, graphics regions and the word buffers of the state. -/

namespace Sys2Proof

/-- A 16-bit word, `u16` of rule R8. -/
abbrev Word := BitVec 16

/-- One byte lane of a word (R64). -/
abbrev Byte := BitVec 8

/-- A pen, 4 bits (R7). -/
abbrev Pen := BitVec 4

/-- The four tilemap layers (R32). -/
inductive Layer where
  | pf1 | pf2 | pf3 | pf4
  deriving DecidableEq, Repr, Inhabited

/-- The two control blocks, control_0 and control_1 (R24). -/
inductive Block where
  | c0 | c1
  deriving DecidableEq, Repr, Inhabited

/-- The two layer slots of a control block (R25). -/
inductive Slot where
  | a | b
  deriving DecidableEq, Repr, Inhabited

/-- The direction of a transaction, the field `DIR` of R90. -/
inductive Dir where
  | read | write
  deriving DecidableEq, Repr, Inhabited

/-- The abstract graphics regions, keys of `GFXPEN` (R32, R182, R237, D23). -/
inductive Region where
  | chars | tilesA | tilesB | sprites
  deriving DecidableEq, Repr, Inhabited

/-- The memory-mapped windows (R60). -/
inductive Window where
  | protW | protR | pal | spr
  | td (layer : Layer)
  | rsb (layer : Layer)
  | ctrl (block : Block)
  | dma | sound
  deriving DecidableEq, Repr, Inhabited

/-- The word buffers of the device state (R20): what a window's words are stored in. -/
inductive Space where
  | lb
  | ctrl (block : Block)
  | td (layer : Layer)
  | rs (layer : Layer)
  | pal | sprLive | sprBuf
  deriving DecidableEq, Repr, Inhabited

/-- One thing for each of the four layers. -/
structure PerLayer (α : Type) where
  pf1 : α
  pf2 : α
  pf3 : α
  pf4 : α
  deriving DecidableEq, Repr, Inhabited

/-- One thing for each of the two control blocks. -/
structure PerBlock (α : Type) where
  c0 : α
  c1 : α
  deriving DecidableEq, Repr, Inhabited

/-- The entry of one layer. -/
def PerLayer.get {α : Type} (p : PerLayer α) : Layer → α
  | .pf1 => p.pf1
  | .pf2 => p.pf2
  | .pf3 => p.pf3
  | .pf4 => p.pf4

/-- The entry of one layer replaced. -/
def PerLayer.set {α : Type} (p : PerLayer α) (L : Layer) (v : α) : PerLayer α :=
  match L with
  | .pf1 => { p with pf1 := v }
  | .pf2 => { p with pf2 := v }
  | .pf3 => { p with pf3 := v }
  | .pf4 => { p with pf4 := v }

/-- The entry of one block. -/
def PerBlock.get {α : Type} (p : PerBlock α) : Block → α
  | .c0 => p.c0
  | .c1 => p.c1

/-- The entry of one block replaced. -/
def PerBlock.set {α : Type} (p : PerBlock α) (b : Block) (v : α) : PerBlock α :=
  match b with
  | .c0 => { p with c0 := v }
  | .c1 => { p with c1 := v }

end Sys2Proof
end

