-- ==== Sys2Proof/Machine/Bits.lean ====
section
/-! DEFINITION. Byte lanes of a word, the combine primitive, lane masks and the signed 9-bit coordinate. -/

namespace Sys2Proof.Machine

/-- The high lane `v[15:8]` (R64). -/
def hiLane (v : Word) : Byte := v.extractLsb' 8 8

/-- The low lane `v[7:0]` (R64). -/
def loLane (v : Word) : Byte := v.extractLsb' 0 8

/-- The word of its two lanes (R64). -/
def ofLanes (hi lo : Byte) : Word := hi ++ lo

/-- `COMBINE(old, data, mask)` (R10): a mask bit set takes the bit of data, a bit clear keeps old. -/
def combine (old data mask : Word) : Word := (old &&& ~~~mask) ||| (data &&& mask)

/-- A lane mask: low byte, high byte or word (R65). -/
def isLaneMask (mask : Word) : Bool := mask == 0x00FF#16 || mask == 0xFF00#16 || mask == 0xFFFF#16

/-- The mask selects the high lane. -/
def selectsHi (mask : Word) : Bool := (mask &&& 0xFF00#16) != 0#16

/-- The mask selects the low lane. -/
def selectsLo (mask : Word) : Bool := (mask &&& 0x00FF#16) != 0#16

/-- `s9(v)`, a signed 9-bit coordinate (R231). -/
def s9 (v : BitVec 9) : Int := if 256 ≤ v.toNat then (v.toNat : Int) - 512 else v.toNat

end Sys2Proof.Machine
end

