-- ==== Sys2Proof/Config.lean ====
section
/-! DEFINITION. The configuration record of rule R6 as plain data, and the free values the spec leaves to the outside
world. A field with a default carries the spec's own default; a field without one is `OPEN` in R6. The record stands in
the machine's state (field `cfg`), so a statement about every state is a statement about every configuration. -/

namespace Sys2Proof

/-- Which read-remap table is in use (R6 `READ_TABLE`, R118). -/
inductive ReadTable where
  | cninja | edrandy
  deriving DecidableEq, Repr, Inhabited

/-- An external input port (R114, R119). The spec writes `PortId` and never says what one is: that the ports are numbered, in
the three kinds R115 names and one for any other port, is the model's choice (log entry 34). -/
inductive PortId where
  | dipSwitch (n : Nat)
  | coin (n : Nat)
  | player (n : Nat)
  | other (n : Nat)
  deriving DecidableEq, Repr, Inhabited

/-- What a read-window offset is mapped to (R114 `Target`). -/
inductive Target where
  | loop (i : BitVec 8)
  | input (p : PortId)
  | yield
  deriving DecidableEq, Repr, Inhabited

/-- A read table: a finite partial map from byte offset to target (R114); the first entry of a key counts. -/
abbrev ReadMap := List (Nat × Target)

/-- The firmware entries rule R115 names in `READMAP_CNINJA`. -/
inductive FirmwareEntry where
  | masterLevelControl | restartPositionControl | creditCount | endOfGameFlag
  | videoRegisterMirror (k : Fin 8)
  | dipSwitchMirror (n : Nat)
  | coinCounterMirror
  | playerInputMirror (n : Nat)
  deriving DecidableEq, Repr, Inhabited

/-- Reset value of the words the source gives none (R6 `RESET_POLICY`, D40). -/
inductive ResetPolicy where
  | zero | arbitrary
  deriving DecidableEq, Repr, Inhabited

/-- The interrupt line of the audio CPU (R156). -/
inductive SoundLine where
  | irq1 | nmi
  deriving DecidableEq, Repr, Inhabited

/-- `TILE_SCAN` (R33, D22): the two-page default, or any map given as the list of word indices of the cells in the order
row * 64 + column. -/
inductive TileScan where
  | twoPages
  | table (index : List Nat)
  deriving DecidableEq, Repr, Inhabited

/-- Where a layer's fields sit (R25). -/
structure SlotAt where
  block : Block
  slot : Slot
  deriving DecidableEq, Repr, Inhabited

/-- The control-block layout (R26, D11 to D16). `bankSel` is `BANK_SEL` as a table: bit b says whether the 8-bit
sub-field value b selects `TILES_B`. -/
structure ControlLayout where
  modeWord : Nat := 6
  styleWord : Nat := 5
  styleLsbA : Nat := 0
  styleLsbB : Nat := 8
  scrollXWordA : Nat := 1
  scrollYWordA : Nat := 2
  scrollXWordB : Nat := 3
  scrollYWordB : Nat := 4
  rsMaskA : Word := 0x0040#16
  rsMaskB : Word := 0x4000#16
  csMaskA : Word := 0x0020#16
  csMaskB : Word := 0x2000#16
  slots : PerLayer SlotAt := ⟨⟨.c1, .a⟩, ⟨.c0, .b⟩, ⟨.c0, .a⟩, ⟨.c1, .b⟩⟩
  bankWord : Nat := 7
  bankLsbPf2 : Nat := 8
  bankLsbPf3 : Nat := 0
  bankSel : BitVec 256 := BitVec.allOnes 256 <<< 1
  deriving DecidableEq, Repr

/-- The word and the least significant bit of a sprite field. -/
structure FieldAt where
  word : Nat
  lsb : Nat
  deriving DecidableEq, Repr, Inhabited

/-- The sprite entry layout (R230, D27); the widths are fixed by R230. -/
structure SpriteLayout where
  y : FieldAt := ⟨0, 0⟩
  height : FieldAt := ⟨0, 9⟩
  flash : FieldAt := ⟨0, 12⟩
  flipX : FieldAt := ⟨0, 13⟩
  flipY : FieldAt := ⟨0, 14⟩
  tile : FieldAt := ⟨1, 0⟩
  x : FieldAt := ⟨2, 0⟩
  colour : FieldAt := ⟨2, 9⟩
  priority : FieldAt := ⟨2, 15⟩
  deriving DecidableEq, Repr

/-- The bootleg patch parameters (R120, D43). -/
structure PatchParams where
  lo : Nat
  hi : Nat
  ops : List Word
  cmps : List Word
  nop : Word
  deriving DecidableEq, Repr, Inhabited

/-- The visible window in screen space, bounds inclusive (R6 `VIS`, R200, D31). -/
structure Vis where
  x0 : Nat := 0
  x1 : Nat := 255
  y0 : Nat := 8
  y1 : Nat := 247
  deriving DecidableEq, Repr

/-- One run of the host address decode `ADDR_DECODE` (R61): in the direction `dir`, the `length` host addresses from `base` on
are the byte offsets of `window` from `first` on. That the decode is a list of runs, each for one direction, is the model's
choice (log entry 29): a run may be one address long, so every finite decode is a list of runs, and a decode that does not
depend on the direction lists each run for both. A run's direction need not be one its window has. -/
structure AddrRange where
  base : Nat
  length : Nat
  dir : Dir
  window : Window
  first : Nat
  deriving DecidableEq, Repr, Inhabited

/-- The configuration record of R6. Every field with a default value carries the spec's own default. -/
structure Config where
  readTable : ReadTable
  bootleg : Bool
  readmapCninja : ReadMap
  readmapEdrandy : ReadMap
  /-- which offset holds each firmware entry that R115 names -/
  cninjaNames : List (FirmwareEntry × Nat)
  protRSize : Nat
  yieldOffset : Nat
  yieldValue : Word := 0x0000#16
  spriteMask : Word
  ctrlWords : Nat := 8
  control : ControlLayout := {}
  colsplitPf3 : Nat
  colsplitPf4 : Nat
  rowscrollWords : Nat := 0x800
  tileMask : Word := 0x0FFF#16
  colourShift : Nat := 12
  tileScan : TileScan := .twoPages
  pf4Region : Region := .tilesA
  paletteEntries : Nat := 2048
  palBase : PerLayer Nat := ⟨0x000, 0x100, 0x200, 0x300⟩
  palBaseSpr : Nat := 0x400
  sprite : SpriteLayout := {}
  spriteEntries : Nat := 256
  sprTileAlign : Bool := false
  vis : Vis := {}
  resetPolicy : ResetPolicy := .zero
  frame0 : Nat := 0
  patch : PatchParams
  addrMap : List AddrRange
  deriving DecidableEq, Repr

/-- The parameters R6 marks `OPEN`, as one record. `protRSlack` is what `PROT_R_SIZE` has above the least R6 allows, and
`splitPf3` says which of pf3 and pf4 splits its column deltas at column 32 (D17). -/
structure OpenParams where
  readmapCninja : ReadMap
  readmapEdrandy : ReadMap
  cninjaNames : List (FirmwareEntry × Nat)
  protRSlack : Nat
  yieldOffset : Nat
  spriteMask : Word
  splitPf3 : Bool
  patch : PatchParams
  addrMap : List AddrRange
  deriving DecidableEq, Repr, Inhabited

/-- The `OPEN` parameters of the session the machine is reset into: a free value, with no body (log entry 2). -/
opaque Config.openParams : OpenParams

/-- `GFXPEN`, the external graphics-ROM oracle (R6, R201, R237): a free value, with no body (log entry 3). -/
opaque Config.gfxPen : Region → Word → Nat → Nat → Pen

/-- `INPUT`, the external input hardware: the n-th draw of the run at a port (R119, D47; log entry 4). -/
opaque Config.inputDraw : Nat → PortId → Word

/-- The arbitrary reset contents of a buffer under `RESET_POLICY = ARBITRARY`: the byte at a byte offset, for the n-th draw
of the run (R290, D40; log entry 5). -/
opaque Config.resetDraw : Nat → Space → Nat → Byte

end Sys2Proof
end

