-- ==== Sys2Proof/Machine/Params.lean ====
section
/-! DEFINITION. What the rules read out of the configuration record of R6, and the configuration of the session the machine is
reset into. -/

namespace Sys2Proof

/-- The read table in use (R118): the bootleg uses the cninja table (D38). -/
def Config.tableInUse (c : Config) : ReadMap :=
  if c.bootleg then c.readmapCninja
  else match c.readTable with
    | .cninja => c.readmapCninja
    | .edrandy => c.readmapEdrandy

/-- The target of a byte offset in a read table (R113, R114); none where the table lacks it. -/
def ReadMap.target : ReadMap → Nat → Option Target
  | [], _ => none
  | (k, t) :: rest, off => if k = off then some t else ReadMap.target rest off

/-- `SOUND_LINE` (R156). -/
def Config.soundLine (c : Config) : SoundLine :=
  if c.bootleg then .nmi else .irq1

/-- `COLSPLIT` of the two layers that have colscroll (R186); none for the others. -/
def Config.colsplit (c : Config) : Layer → Option Nat
  | .pf1 => none
  | .pf2 => none
  | .pf3 => some c.colsplitPf3
  | .pf4 => some c.colsplitPf4

/-- `NOP_WORD` is in neither pattern set: what makes the patch idempotent (R121). -/
def PatchParams.idempotent (p : PatchParams) : Bool :=
  !p.ops.contains p.nop && !p.cmps.contains p.nop

/-- `FLIP_WORD` (R27). -/
def flipWord : Nat := 0

/-- `FLIP_MASK` (R27). -/
def flipMask : Word := 0x8000#16

/-- `COLSCROLL_BASE` (R34). -/
def colscrollBase : Nat := 0x400

/-- `MODE_WORD` mask `RS_MASK[s]` (R28). -/
def ControlLayout.rsMask (k : ControlLayout) : Slot → Word
  | .a => k.rsMaskA
  | .b => k.rsMaskB

/-- `MODE_WORD` mask `CS_MASK[s]` (R28). -/
def ControlLayout.csMask (k : ControlLayout) : Slot → Word
  | .a => k.csMaskA
  | .b => k.csMaskB

/-- `STYLE_LSB[s]` (R28). -/
def ControlLayout.styleLsb (k : ControlLayout) : Slot → Nat
  | .a => k.styleLsbA
  | .b => k.styleLsbB

/-- `SCROLLX_WORD[s]` (R28). -/
def ControlLayout.scrollXWord (k : ControlLayout) : Slot → Nat
  | .a => k.scrollXWordA
  | .b => k.scrollXWordB

/-- `SCROLLY_WORD[s]` (R28). -/
def ControlLayout.scrollYWord (k : ControlLayout) : Slot → Nat
  | .a => k.scrollYWordA
  | .b => k.scrollYWordB

/-- `BANK_SEL` of an 8-bit bank sub-field (R29). -/
def ControlLayout.bankSelects (k : ControlLayout) (b : BitVec 8) : Bool :=
  k.bankSel.getLsbD b.toNat

/-- `TILE_SCAN(col, row)` (R33). -/
def TileScan.index (t : TileScan) (col row : Nat) : Nat :=
  match t with
  | .twoPages => (col &&& 0x1F) ||| ((row &&& 0x1F) <<< 5) ||| ((col &&& 0x20) <<< 5)
  | .table index => index.getD (row * 64 + col) 0

/-- The largest key of a read table. -/
def ReadMap.maxKey : ReadMap → Nat
  | [] => 0
  | (k, _) :: rest => max k (ReadMap.maxKey rest)

/-- The configuration `State.reset` stands in: the cninja board, not the bootleg (log entry 1), with every default of the
spec and the free `OPEN` parameters. -/
def Config.session : Config where
  readTable := .cninja
  bootleg := false
  readmapCninja := Config.openParams.readmapCninja
  readmapEdrandy := Config.openParams.readmapEdrandy
  cninjaNames := Config.openParams.cninjaNames
  protRSize := Config.openParams.protRSlack + (Config.openParams.readmapCninja.maxKey + 2)
  yieldOffset := Config.openParams.yieldOffset
  spriteMask := Config.openParams.spriteMask
  colsplitPf3 := if Config.openParams.splitPf3 then 32 else 0
  colsplitPf4 := if Config.openParams.splitPf3 then 0 else 32
  patch := Config.openParams.patch
  addrMap := Config.openParams.addrMap

end Sys2Proof
end

