-- ==== Sys2Proof/Machine/Windows.lean ====
section
/-! DEFINITION. The windows of rule R60: ids, byte sizes, directions, and the parity of an offset. -/

namespace Sys2Proof

/-- The layer's number, `WIN[1:0]` of the tile-data and rowscroll windows (R91). -/
def Layer.num : Layer → BitVec 2
  | .pf1 => 0#2
  | .pf2 => 1#2
  | .pf3 => 2#2
  | .pf4 => 3#2

/-- The layer of a number (R93). -/
def Layer.ofNum (n : BitVec 2) : Layer :=
  if n = 0#2 then .pf1 else if n = 1#2 then .pf2 else if n = 2#2 then .pf3 else .pf4

/-- The block's number, `WIN[0]` of the control windows (R91). -/
def Block.num : Block → BitVec 1
  | .c0 => 0#1
  | .c1 => 1#1

/-- The block of a number (R93). -/
def Block.ofNum (n : BitVec 1) : Block :=
  if n = 0#1 then .c0 else .c1

/-- The window id `WIN` (R91). -/
def Window.id : Window → BitVec 5
  | .protW => 0x00#5
  | .protR => 0x01#5
  | .pal => 0x02#5
  | .spr => 0x03#5
  | .td L => 0b001#3 ++ L.num
  | .rsb L => 0b010#3 ++ L.num
  | .ctrl b => 0b0110#4 ++ b.num
  | .dma => 0x0E#5
  | .sound => 0x0F#5

/-- The window of an id below 0x10 (R91); none for the reserved ids and for host events. -/
def Window.ofId (w : BitVec 5) : Option Window :=
  if w.extractLsb' 2 3 = 0b001#3 then some (.td (Layer.ofNum (w.extractLsb' 0 2)))
  else if w.extractLsb' 2 3 = 0b010#3 then some (.rsb (Layer.ofNum (w.extractLsb' 0 2)))
  else if w.extractLsb' 1 4 = 0b0110#4 then some (.ctrl (Block.ofNum (w.extractLsb' 0 1)))
  else if w = 0x00#5 then some .protW
  else if w = 0x01#5 then some .protR
  else if w = 0x02#5 then some .pal
  else if w = 0x03#5 then some .spr
  else if w = 0x0E#5 then some .dma
  else if w = 0x0F#5 then some .sound
  else none

/-- The byte size of a window (R60). -/
def Window.size (c : Config) : Window → Nat
  | .protW => 0x200
  | .protR => c.protRSize
  | .pal => 4 * c.paletteEntries
  | .spr => 8 * c.spriteEntries
  | .td _ => 0x1000
  | .rsb _ => 2 * c.rowscrollWords
  | .ctrl _ => 2 * c.ctrlWords
  | .dma => 2
  | .sound => 2

/-- The directions a window has (R60, R68). -/
def Window.allows : Window → Dir → Bool
  | .protW, .write => true
  | .protW, .read => false
  | .protR, .read => true
  | .protR, .write => false
  | .pal, _ => true
  | .spr, _ => true
  | .td _, _ => true
  | .rsb _, _ => true
  | .ctrl _, .write => true
  | .ctrl _, .read => false
  | .dma, .write => true
  | .dma, .read => false
  | .sound, .write => true
  | .sound, .read => false

/-- An offset is even (R66). -/
def offEven (off : BitVec 17) : Bool := off.getLsbD 0 == false

end Sys2Proof
end

