-- ==== Sys2Proof/Syntax.lean ====
section
/-! DEFINITION. The requests the device takes: one constructor for each row of spec/opcode_table.json (R95), with the
operands of R93. -/

namespace Sys2Proof

/-- A request. `off` is the byte offset inside the window, `data` the written word, `mask` its lane mask (R63, R90). -/
inductive Instr where
  /-- LBW, loopback register write (R110). -/
  | lbw (off : BitVec 17) (data mask : Word)
  /-- PRD, protection read (R113). -/
  | prd (off : BitVec 17)
  /-- PLR, palette read (R151). -/
  | plr (off : BitVec 17)
  /-- PLW, palette write (R150). -/
  | plw (off : BitVec 17) (data mask : Word)
  /-- SRR, sprite-RAM read (R153). -/
  | srr (off : BitVec 17)
  /-- SRW, sprite-RAM write (R152). -/
  | srw (off : BitVec 17) (data mask : Word)
  /-- TDR, tile-data read (R142). -/
  | tdr (layer : Layer) (off : BitVec 17)
  /-- TDW, tile-data write (R141). -/
  | tdw (layer : Layer) (off : BitVec 17) (data mask : Word)
  /-- RSR, rowscroll-buffer read (R144). -/
  | rsr (layer : Layer) (off : BitVec 17)
  /-- RSW, rowscroll-buffer write (R143). -/
  | rsw (layer : Layer) (off : BitVec 17) (data mask : Word)
  /-- CTW, control-register write (R145). -/
  | ctw (block : Block) (off : BitVec 17) (data mask : Word)
  /-- DMA, DMA-flag write (R154); its window is one word, so its offset is 0. -/
  | dma (data mask : Word)
  /-- SLW, sound-latch write (R155); its window is one word, so its offset is 0. -/
  | slw (data mask : Word)
  /-- RENDER, render one frame (R180). -/
  | render
  /-- IRQ, the periodic video interrupt (R264). -/
  | irq
  /-- RESET, reset the device (R290). -/
  | reset
  /-- PATCH, the load-time bootleg patch (R120). -/
  | patch
  deriving DecidableEq, Repr

end Sys2Proof
end

