-- ==== Sys2Proof/WellFormed.lean ====
section
/-! DEFINITION. Which requests are well formed (R66, R67): what the decoder never lets through otherwise. And which
configurations meet the constraints the spec states on the parameters of R6. -/

namespace Sys2Proof

/-- The direction and window of a transaction; none for a host event (R95). -/
def Instr.target : Instr → Option (Dir × Window)
  | .lbw _ _ _ => some (.write, .protW)
  | .prd _ => some (.read, .protR)
  | .plr _ => some (.read, .pal)
  | .plw _ _ _ => some (.write, .pal)
  | .srr _ => some (.read, .spr)
  | .srw _ _ _ => some (.write, .spr)
  | .tdr L _ => some (.read, .td L)
  | .tdw L _ _ _ => some (.write, .td L)
  | .rsr L _ => some (.read, .rsb L)
  | .rsw L _ _ _ => some (.write, .rsb L)
  | .ctw b _ _ _ => some (.write, .ctrl b)
  | .dma _ _ => some (.write, .dma)
  | .slw _ _ => some (.write, .sound)
  | .render => none
  | .irq => none
  | .reset => none
  | .patch => none

/-- The byte offset of a transaction, `OFF` (R90); 0 for the one-word windows and for host events. -/
def Instr.off : Instr → BitVec 17
  | .lbw off _ _ => off
  | .prd off => off
  | .plr off => off
  | .plw off _ _ => off
  | .srr off => off
  | .srw off _ _ => off
  | .tdr _ off => off
  | .tdw _ off _ _ => off
  | .rsr _ off => off
  | .rsw _ off _ _ => off
  | .ctw _ off _ _ => off
  | .dma _ _ => 0#17
  | .slw _ _ => 0#17
  | .render => 0#17
  | .irq => 0#17
  | .reset => 0#17
  | .patch => 0#17

/-- The lane mask of a write; none for a read and for a host event (R97). -/
def Instr.laneMask : Instr → Option Word
  | .lbw _ _ m => some m
  | .prd _ => none
  | .plr _ => none
  | .plw _ _ m => some m
  | .srr _ => none
  | .srw _ _ m => some m
  | .tdr _ _ => none
  | .tdw _ _ _ m => some m
  | .rsr _ _ => none
  | .rsw _ _ _ m => some m
  | .ctw _ _ _ m => some m
  | .dma _ m => some m
  | .slw _ m => some m
  | .render => none
  | .irq => none
  | .reset => none
  | .patch => none

/-- A request is well formed in a configuration: a transaction's offset is even (R66) and below the byte size of its window
(R67); a host event always is. The lane mask is checked when the write executes (R94). -/
def Instr.wellFormed (c : Config) (i : Instr) : Bool :=
  match i.target with
  | none => true
  | some (_, w) => offEven i.off && decide (i.off.toNat < w.size c)

/-- The keys of a read table are even and no key stands twice (R114). -/
def ReadMap.wellFormed (m : ReadMap) : Bool :=
  m.all (fun e => e.1 % 2 == 0) && decide ((m.map Prod.fst).Nodup)

/-- The offsets of the `Yield` entries of a table (R117). -/
def ReadMap.yields (m : ReadMap) : List Nat :=
  (m.filter (fun e => e.2 == .yield)).map Prod.fst

/-- The twelve firmware entries R115 says are loopback entries. -/
def FirmwareEntry.loopEntries : List FirmwareEntry :=
  [.masterLevelControl, .restartPositionControl, .creditCount, .endOfGameFlag] ++
    (List.finRange 8).map .videoRegisterMirror

/-- The table holds, under distinct offsets, a `Loop` entry for each of the twelve names of R115. The rule calls the eight
video-register mirrors distinct entries and counts the twelve as that many; that a dip-switch, coin-counter or player-input
mirror need be no entry of its own, and that a name stands once in the list, is the model's choice (log entry 31). -/
def Config.namesLoopEntries (c : Config) : Bool :=
  FirmwareEntry.loopEntries.all (fun n =>
    c.cninjaNames.any (fun e => e.1 == n &&
      c.readmapCninja.any (fun t => t.1 == e.2 && match t.2 with
        | .loop _ => true
        | .input _ => false
        | .yield => false))) &&
  decide ((c.cninjaNames.map Prod.fst).Nodup) &&
  decide (((c.cninjaNames.filter (fun e => FirmwareEntry.loopEntries.contains e.1)).map Prod.snd).Nodup)

/-- R115's other names: dip-switch, coin-counter and player-input mirrors, each an `Input` entry or a `Loop` entry. The rule
gives no number of dip-switch and player-input mirrors; that one of each is enough is the model's choice (log entry 31). -/
def Config.namesInputEntries (c : Config) : Bool :=
  let mapped := fun (p : FirmwareEntry → Bool) =>
    c.cninjaNames.any (fun e => p e.1 && c.readmapCninja.any (fun t => t.1 == e.2 && t.2 != .yield))
  mapped (fun n => match n with | .dipSwitchMirror _ => true | _ => false) &&
  mapped (fun n => n == .coinCounterMirror) &&
  mapped (fun n => match n with | .playerInputMirror _ => true | _ => false)

/-- Two runs of the address decode have no host address in common. -/
def AddrRange.apart (r q : AddrRange) : Bool :=
  decide (r.base + r.length ≤ q.base ∨ q.base + q.length ≤ r.base)

/-- No host address stands both in a run of `PROT_W` and in a run of `PROT_R` of one direction (R61, D3). -/
def Config.addrDisjoint (c : Config) : Bool :=
  c.addrMap.all (fun r => c.addrMap.all (fun q =>
    !(r.window == .protW && q.window == .protR && r.dir == q.dir) || r.apart q))

/-- Every run of the address decode starts at an even host address and an even byte offset, so that an even host byte address
is an even byte offset: what R64 and R66 presuppose (log entry 30). -/
def Config.addrEven (c : Config) : Bool :=
  c.addrMap.all (fun r => r.base % 2 == 0 && r.first % 2 == 0)

/-- The visible window lies in the 256 x 256 screen (R6 `VIS`, R200). -/
def Config.visOnScreen (c : Config) : Bool := decide (c.vis.x1 ≤ 255 ∧ c.vis.y1 ≤ 255)

/-- Every palette index of R201 and R237 lies in the range of R198, 0 to `PALETTE_ENTRIES - 1`: a layer's colour is at most
0xFFFF shifted by `COLOUR_SHIFT`, a sprite's at most 31, a pen at most 15. The spec gives the range and no bound on the
parameters (log entry 33). -/
def Config.paletteFits (c : Config) : Bool :=
  [Layer.pf1, .pf2, .pf3, .pf4].all (fun L => decide (c.palBase.get L + 16 * (0xFFFF >>> c.colourShift) + 15 < c.paletteEntries)) &&
  decide (c.palBaseSpr + 16 * 31 + 15 < c.paletteEntries)

/-- The constraints the spec states on the parameters (R6, R34, R36, R114, R117, R121, R186, R200, R61), the even runs of log
entry 30, and the palette bound of log entry 33. -/
def Config.wellFormed (c : Config) : Bool :=
  c.readmapCninja.wellFormed && c.readmapEdrandy.wellFormed &&
  c.readmapCninja.yields.isEmpty && (c.readmapEdrandy.yields == [c.yieldOffset]) &&
  decide (c.tableInUse.maxKey + 2 ≤ c.protRSize) &&
  decide (0x440 ≤ c.rowscrollWords) && decide (c.spriteEntries ≤ 256) &&
  (decide (c.colsplitPf3 = 32 ∧ c.colsplitPf4 = 0) || decide (c.colsplitPf3 = 0 ∧ c.colsplitPf4 = 32)) &&
  c.patch.idempotent && decide (c.patch.ops.length = 2) && decide (c.patch.cmps.length = 2) &&
  c.addrDisjoint && c.addrEven && c.visOnScreen && c.paletteFits

end Sys2Proof
end

