-- ==== Sys2Proof/Decode.lean ====
section
/-! DEFINITION. The 32-bit request word with its two operands (R90), the total decoder of R94 and, after it, the encoder
written from the same tables (R90 to R95). -/

namespace Sys2Proof

/-- A request as it is presented: the request word and, for a write, the operands `DATA` and `MASK` (R90). A read and a host
event carry nothing (R97): for them the two operand fields are not read. -/
structure Request where
  word : BitVec 32
  data : Word
  mask : Word
  deriving DecidableEq, Repr, Inhabited

/-- Why the decoder refuses a request word (R94, R96). -/
inductive DecodeError where
  /-- `RSV` is not 0. -/
  | reservedBits
  /-- `WIN = 0x1F` with `DIR = 1` or an event code above 3. -/
  | reservedEvent
  /-- `WIN` is 0x10 to 0x1E. -/
  | reservedWindow
  /-- The byte offset is odd (R66). -/
  | oddOffset
  /-- The window does not have the direction (R68). -/
  | wrongDirection
  /-- The byte offset is not below the window's size (R67). -/
  | outOfWindow
  deriving DecidableEq, Repr

/-- What the decoder answers. -/
inductive Decoded where
  | instr (i : Instr)
  | reject (e : DecodeError)
  deriving DecidableEq, Repr

/-- `DIR`, bit 31 (R90). -/
def dirField (q : BitVec 32) : Dir :=
  if q.getLsbD 31 then .write else .read

/-- `WIN`, bits 30:26 (R90). -/
def winField (q : BitVec 32) : BitVec 5 :=
  q.extractLsb' 26 5

/-- `RSV`, bits 25:17 (R90). -/
def rsvField (q : BitVec 32) : BitVec 9 :=
  q.extractLsb' 17 9

/-- `OFF`, bits 16:0 (R90). -/
def offField (q : BitVec 32) : BitVec 17 :=
  q.extractLsb' 0 17

/-- The window id of a host event (R91, R92). -/
def eventWin : BitVec 5 := 0x1F#5

/-- The host event of an event code (R92); the decoder asks for codes 0 to 3 only. -/
def eventOf (code : BitVec 17) : Instr :=
  if code = 0#17 then .render
  else if code = 1#17 then .irq
  else if code = 2#17 then .reset
  else .patch

/-- The transaction of a window and direction, one line for each row of the map of R95; the decoder asks for directions the
window has only. -/
def transactionOf (w : Window) (d : Dir) (off : BitVec 17) (data mask : Word) : Instr :=
  match w, d with
  | .protW, _ => .lbw off data mask
  | .protR, _ => .prd off
  | .pal, .read => .plr off
  | .pal, .write => .plw off data mask
  | .spr, .read => .srr off
  | .spr, .write => .srw off data mask
  | .td L, .read => .tdr L off
  | .td L, .write => .tdw L off data mask
  | .rsb L, .read => .rsr L off
  | .rsb L, .write => .rsw L off data mask
  | .ctrl b, _ => .ctw b off data mask
  | .dma, _ => .dma data mask
  | .sound, _ => .slw data mask

/-- The part of the decoder for a transaction: the last three checks of R94. -/
def decodeTransaction (c : Config) (w : Window) (r : Request) : Decoded :=
  if offEven (offField r.word) = false then .reject .oddOffset
  else if w.allows (dirField r.word) = false then .reject .wrongDirection
  else if w.size c ≤ (offField r.word).toNat then .reject .outOfWindow
  else .instr (transactionOf w (dirField r.word) (offField r.word) r.data r.mask)

/-- The decoder of R94, total on every request; its checks stand in that rule's order and the first that fails decides. -/
def decode (c : Config) (r : Request) : Decoded :=
  if rsvField r.word ≠ 0#9 then .reject .reservedBits
  else if winField r.word = eventWin then
    if dirField r.word = .write ∨ 3 < (offField r.word).toNat then .reject .reservedEvent
    else .instr (eventOf (offField r.word))
  else match Window.ofId (winField r.word) with
    | none => .reject .reservedWindow
    | some w => decodeTransaction c w r

/-- The bit of `DIR` in place (R90). -/
def dirBit : Dir → BitVec 32
  | .read => 0x00000000#32
  | .write => 0x80000000#32

/-- The request word of its fields (R90): `DIR` at 31, `WIN` at 30:26, `RSV` zero, `OFF` at 16:0. -/
def requestWord (d : Dir) (win : BitVec 5) (off : BitVec 17) : BitVec 32 :=
  dirBit d ||| (win.setWidth 32 <<< 26) ||| off.setWidth 32

/-- A read: it carries nothing besides the word (R97). -/
def readRequest (w : Window) (off : BitVec 17) : Request :=
  ⟨requestWord .read w.id off, 0#16, 0#16⟩

/-- A write with its operands (R90). -/
def writeRequest (w : Window) (off : BitVec 17) (data mask : Word) : Request :=
  ⟨requestWord .write w.id off, data, mask⟩

/-- A host event (R92). -/
def eventRequest (code : BitVec 17) : Request :=
  ⟨requestWord .read eventWin code, 0#16, 0#16⟩

/-- The encoder: the request of an instruction (R90 to R95). -/
def encode : Instr → Request
  | .lbw off data mask => writeRequest .protW off data mask
  | .prd off => readRequest .protR off
  | .plr off => readRequest .pal off
  | .plw off data mask => writeRequest .pal off data mask
  | .srr off => readRequest .spr off
  | .srw off data mask => writeRequest .spr off data mask
  | .tdr L off => readRequest (.td L) off
  | .tdw L off data mask => writeRequest (.td L) off data mask
  | .rsr L off => readRequest (.rsb L) off
  | .rsw L off data mask => writeRequest (.rsb L) off data mask
  | .ctw b off data mask => writeRequest (.ctrl b) off data mask
  | .dma data mask => writeRequest .dma 0#17 data mask
  | .slw data mask => writeRequest .sound 0#17 data mask
  | .render => eventRequest 0#17
  | .irq => eventRequest 1#17
  | .reset => eventRequest 2#17
  | .patch => eventRequest 3#17

/-- The mnemonics of the opcode map (R95). -/
inductive Mnemonic where
  | LBW | PRD | PLR | PLW | SRR | SRW | TDR | TDW | RSR | RSW | CTW | DMA | SLW | RENDER | IRQ | RESET | PATCH
  deriving DecidableEq, Repr

/-- One row of the opcode map (R95). -/
structure Row where
  mnemonic : Mnemonic
  pattern : BitVec 32
  mask : BitVec 32
  deriving DecidableEq, Repr

/-- The opcode map of R95. -/
def opcodeMap : List Row :=
  [⟨.LBW, 0x80000000#32, 0xFFFE0001#32⟩, ⟨.PRD, 0x04000000#32, 0xFFFE0001#32⟩,
   ⟨.PLR, 0x08000000#32, 0xFFFE0001#32⟩, ⟨.PLW, 0x88000000#32, 0xFFFE0001#32⟩,
   ⟨.SRR, 0x0C000000#32, 0xFFFE0001#32⟩, ⟨.SRW, 0x8C000000#32, 0xFFFE0001#32⟩,
   ⟨.TDR, 0x10000000#32, 0xF3FE0001#32⟩, ⟨.TDW, 0x90000000#32, 0xF3FE0001#32⟩,
   ⟨.RSR, 0x20000000#32, 0xF3FE0001#32⟩, ⟨.RSW, 0xA0000000#32, 0xF3FE0001#32⟩] ++
  [⟨.CTW, 0xB0000000#32, 0xFBFE0001#32⟩, ⟨.DMA, 0xB8000000#32, 0xFFFE0001#32⟩,
   ⟨.SLW, 0xBC000000#32, 0xFFFE0001#32⟩, ⟨.RENDER, 0x7C000000#32, 0xFFFFFFFF#32⟩,
   ⟨.IRQ, 0x7C000001#32, 0xFFFFFFFF#32⟩, ⟨.RESET, 0x7C000002#32, 0xFFFFFFFF#32⟩,
   ⟨.PATCH, 0x7C000003#32, 0xFFFFFFFF#32⟩]

/-- A word matches a row (R95): `q & mask == match`. -/
def Row.matches (row : Row) (q : BitVec 32) : Bool :=
  q &&& row.mask == row.pattern

/-- The mnemonic of an instruction (R95). -/
def Instr.mnemonic : Instr → Mnemonic
  | .lbw _ _ _ => .LBW
  | .prd _ => .PRD
  | .plr _ => .PLR
  | .plw _ _ _ => .PLW
  | .srr _ => .SRR
  | .srw _ _ _ => .SRW
  | .tdr _ _ => .TDR
  | .tdw _ _ _ _ => .TDW
  | .rsr _ _ => .RSR
  | .rsw _ _ _ _ => .RSW
  | .ctw _ _ _ _ => .CTW
  | .dma _ _ => .DMA
  | .slw _ _ => .SLW
  | .render => .RENDER
  | .irq => .IRQ
  | .reset => .RESET
  | .patch => .PATCH

/-- The request of a table word of nbits bits: the request word is bits 31..0, `DATA` bits 47..32 and `MASK` bits 63..48. An
operand the word is too short to hold is omitted, and an omitted operand reads as R98 says: mask 0xFFFF, data 0 (log
entry 9). -/
def Request.ofTableWord (nbits w : Nat) : Request :=
  ⟨BitVec.ofNat 32 w,
   if 32 < nbits then BitVec.ofNat 16 (w >>> 32) else 0#16,
   if 48 < nbits then BitVec.ofNat 16 (w >>> 48) else 0xFFFF#16⟩

/-- The instruction the decoder reads from a table word, in the configuration of `State.reset`. -/
def decodeTableWord (nbits w : Nat) : Option Instr :=
  match decode Config.session (Request.ofTableWord nbits w) with
  | .instr i => some i
  | .reject _ => none

end Sys2Proof
end

