-- ==== Sys2Proof/Machine/State.lean ====
section
/-! DEFINITION. The device state of rule R20 as plain data, the events of its history (R40), the fault and refusal reasons,
and the state right after reset (R42). -/

namespace Sys2Proof.Machine

/-- What an unlisted byte of a memory reads as: zero, or the reset contents drawn at the given draw of the run for the given
buffer (R42, R290, D40). -/
inductive Fill where
  | zero
  | arbitrary (draw : Nat) (space : Space)
  deriving DecidableEq, Repr

/-- One word buffer of the device, as bytes keyed by byte offset. The high lane of the word at even offset 2w is the byte at
2w, the low lane the byte at 2w + 1 (R64, D4). The canonical form is `Memory.wf` (Machine/Ops.lean). -/
structure Memory where
  fill : Fill
  cells : List Host.Cell
  deriving DecidableEq, Repr

/-- A memory in which nothing is listed. -/
def Memory.blank (f : Fill) : Memory := ⟨f, []⟩

/-- A resolved scroll configuration `(N, M, xs, ys)` (R184). -/
structure ScrollCfg where
  rows : Nat
  cols : Nat
  xs : List Word
  ys : List Word
  deriving DecidableEq, Repr

/-- The transparency class of a layer pass (R191). -/
inductive PenClass where
  | opaquePens | transparent | back | front
  deriving DecidableEq, Repr

/-- A layer pass of the render plan (R190, R197). -/
structure LayerPass where
  layer : Layer
  tileSize : Nat
  cfg : ScrollCfg
  region : Region
  palBase : Nat
  pens : PenClass
  deriving DecidableEq, Repr

/-- A sprite cell of the render plan, in unflipped screen coordinates (R197, R236). -/
structure Cell where
  tile : Word
  colour : BitVec 5
  flipX : Bool
  flipY : Bool
  x : Int
  y : Int
  deriving DecidableEq, Repr

/-- One draw pass (R197). The group of a sprite pass is the priority bit of its entries: false is group 0. -/
inductive Pass where
  | layer (p : LayerPass)
  | sprites (group : Bool) (cells : List Cell)
  deriving DecidableEq, Repr

/-- The render plan (R197). -/
structure Plan where
  frame : Nat
  flip : Bool
  passes : List Pass
  deriving DecidableEq, Repr

/-- The events the device emits (R40). The pixels of `bitmap` are the rows of the visible window from its top, each from its
left; a pixel is the palette index drawn there, none where no pass drew (R198, R202). -/
inductive Event where
  | setColor (entry : Nat) (r g b : Byte)
  | soundLatch (v : Byte)
  | soundIrq (line : SoundLine)
  | plan (p : Plan)
  | bitmap (frame : Nat) (pixels : List (List (Option Nat)))
  | yield
  | unmappedRead (off : Nat)
  | patched (i : Nat)
  deriving DecidableEq, Repr

/-- The device state (R20), the configuration record it runs under (R6), the host program image `PATCH` acts on (R120), and
the model's own fields: the requests still to be taken, the value last returned by a read, and the draw counter. -/
structure State where
  /-- the configuration record, which no request changes (R6, R291) -/
  cfg : Config
  /-- `LB`, the loopback register file (R21) -/
  lb : Memory
  /-- `CTRL[0]`, `CTRL[1]` (R24) -/
  ctrl : PerBlock Memory
  /-- `TD[pf1..pf4]` (R33) -/
  td : PerLayer Memory
  /-- `RS[pf1..pf4]` (R34) -/
  rs : PerLayer Memory
  /-- `PAL` (R35) -/
  pal : Memory
  /-- `SPR_LIVE` (R36) -/
  sprLive : Memory
  /-- `SPR_BUF` (R36) -/
  sprBuf : Memory
  /-- `FRAME` (R37) -/
  frame : Nat
  /-- `SUSPEND` (R38) -/
  suspend : Bool
  /-- `DIRTY[pf1..pf4]`, bit w for cell w (R39, R141) -/
  dirty : PerLayer (BitVec 2048)
  /-- `USED_SPR_COLOURS`, ascending (R39, R196) -/
  usedSprColours : List (BitVec 5)
  /-- `HIST`, oldest first (R40) -/
  hist : List Event
  /-- `IMG`, the host program image (R120) -/
  img : List Word
  /-- the requests of the host CPU and of the scheduler still to be taken, in their one total order (R72; the model's own) -/
  reqs : List Request
  /-- the value the last read request returned (R63; the model's own) -/
  readData : Word
  /-- how many free values the run has drawn (R9 `draw`; the model's own) -/
  draws : Nat
  deriving DecidableEq, Repr

/-- There is no fault: the hardware raises none (R11, R260), so this type has no constructor and nothing raises one. -/
inductive Fault where
  deriving DecidableEq, Repr

/-- The refusals of the model: a request it gives no meaning (R96, R261). All are safe: the model stops where the spec names
the refusal. -/
inductive Refusal where
  /-- exec, for an instruction that has no meaning yet. Safe. -/
  | notModelled (mnemonic : String)
  /-- The decoder: `RSV` is not 0 (R94). Safe. -/
  | reservedBits
  /-- The decoder: a host event with `DIR = 1` or a code above 3 (R94). Safe. -/
  | reservedEvent
  /-- The decoder: a window id 0x10 to 0x1E (R94). Safe. -/
  | reservedWindow
  /-- The decoder: an odd byte offset (R66). Safe. -/
  | oddOffset
  /-- The decoder: a direction the window does not have (R68). Safe. -/
  | wrongDirection
  /-- The decoder: a byte offset not below the window's size (R67). Safe. -/
  | outOfWindow
  /-- Every write, on a mask that is no lane mask (R65). Safe. -/
  | badMask
  /-- PATCH in a bootleg configuration whose no-op word is one of its patterns (R121). Safe. -/
  | badPatchConfig
  deriving DecidableEq, Repr

/-- The machine right after reset (R42, R292): every word zero (`RESET_POLICY = ZERO`), every cell dirty, nothing suspended,
no event emitted, no request presented, no program image loaded. -/
def State.reset : State where
  cfg := Config.session
  lb := Memory.blank .zero
  ctrl := ⟨Memory.blank .zero, Memory.blank .zero⟩
  td := ⟨Memory.blank .zero, Memory.blank .zero, Memory.blank .zero, Memory.blank .zero⟩
  rs := ⟨Memory.blank .zero, Memory.blank .zero, Memory.blank .zero, Memory.blank .zero⟩
  pal := Memory.blank .zero
  sprLive := Memory.blank .zero
  sprBuf := Memory.blank .zero
  frame := 0
  suspend := false
  dirty := ⟨BitVec.allOnes 2048, BitVec.allOnes 2048, BitVec.allOnes 2048, BitVec.allOnes 2048⟩
  usedSprColours := []
  hist := []
  img := []
  reqs := []
  readData := 0x0000#16
  draws := 0

end Sys2Proof.Machine
end

