-- ==== Sys2Proof/Machine/Ops.lean ====
section
/-! DEFINITION. The shared operations of the machine: the byte memories and their words, the buffers of the state, the event
history, the value a read returns, the draws, the hold and its end, and reset.

TAKING AN EXCEPTION. The device has no exception entry and no return from one: it raises none, saves nothing and has no
mode, vector or handler (R260, R267, R268). What stands in their place is the hold of the host CPU, `State.holdHost`, and
its end, `State.releaseHost` (R117, R264). -/

namespace Sys2Proof.Machine

/-- What an unlisted byte reads as. -/
def Fill.byte : Fill → Nat → Byte
  | .zero, _ => 0#8
  | .arbitrary draw sp, a => Config.resetDraw draw sp a

/-- The byte listed at an address. -/
def cellAt : List Host.Cell → Nat → Option Byte
  | [], _ => none
  | (k, v) :: rest, a => if k = a then some v else cellAt rest a

/-- The cells with the byte v at address a, in rising order. -/
def insertCell (a : Nat) (v : Byte) : List Host.Cell → List Host.Cell
  | [] => [(a, v)]
  | (k, w) :: rest =>
    if a < k then (a, v) :: (k, w) :: rest
    else if a = k then (a, v) :: rest
    else (k, w) :: insertCell a v rest

/-- The cells without address a. -/
def eraseCell (a : Nat) : List Host.Cell → List Host.Cell
  | [] => []
  | (k, w) :: rest => if k = a then eraseCell a rest else (k, w) :: eraseCell a rest

/-- Reading one byte. -/
def Memory.readByte (m : Memory) (a : Nat) : Byte := (cellAt m.cells a).getD (m.fill.byte a)

/-- Writing one byte; writing what an unlisted address reads as removes the entry. -/
def Memory.writeByte (m : Memory) (a : Nat) (v : Byte) : Memory :=
  if v = m.fill.byte a then ⟨m.fill, eraseCell a m.cells⟩ else ⟨m.fill, insertCell a v m.cells⟩

/-- The canonical form: addresses strictly rising, and no entry equal to what an unlisted address reads as. -/
abbrev Memory.wf (m : Memory) : Prop :=
  m.cells.Pairwise (fun p q => p.1 < q.1) ∧ ∀ p ∈ m.cells, p.2 ≠ m.fill.byte p.1

/-- The byte offset of the high lane of word w (R64, D4). -/
def hiOffset (w : Nat) : Nat := 2 * w

/-- The byte offset of the low lane of word w (R64, D4). -/
def loOffset (w : Nat) : Nat := 2 * w + 1

/-- Reading word w (R63). -/
def Memory.readWord (m : Memory) (w : Nat) : Word :=
  ofLanes (m.readByte (hiOffset w)) (m.readByte (loOffset w))

/-- Writing word w. -/
def Memory.writeWord (m : Memory) (w : Nat) (v : Word) : Memory :=
  (m.writeByte (hiOffset w) (hiLane v)).writeByte (loOffset w) (loLane v)

/-- The combine-write of word w (R10, R69). -/
def Memory.combineAt (m : Memory) (w : Nat) (data mask : Word) : Memory :=
  m.writeWord w (combine (m.readWord w) data mask)

/-- The memory of a buffer (R20). -/
def State.mem (s : State) : Space → Memory
  | .lb => s.lb
  | .ctrl b => s.ctrl.get b
  | .td L => s.td.get L
  | .rs L => s.rs.get L
  | .pal => s.pal
  | .sprLive => s.sprLive
  | .sprBuf => s.sprBuf

/-- The memory of a buffer replaced. -/
def State.setMem (s : State) (sp : Space) (m : Memory) : State :=
  match sp with
  | .lb => { s with lb := m }
  | .ctrl b => { s with ctrl := s.ctrl.set b m }
  | .td L => { s with td := s.td.set L m }
  | .rs L => { s with rs := s.rs.set L m }
  | .pal => { s with pal := m }
  | .sprLive => { s with sprLive := m }
  | .sprBuf => { s with sprBuf := m }

/-- Word w of a buffer: `LB[w]`, `CTRL[b][w]`, `TD[L][w]`, `RS[L][w]`, `PAL[w]`, `SPR_LIVE[w]`, `SPR_BUF[w]` (R9). -/
def State.wordAt (s : State) (sp : Space) (w : Nat) : Word := (s.mem sp).readWord w

/-- `emit` (R9): the event appended to the history. -/
def State.emit (s : State) (e : Event) : State := { s with hist := s.hist ++ [e] }

/-- The 16-bit value a read returns to its issuer (R63, R90). -/
def State.respond (s : State) (v : Word) : State := { s with readData := v }

/-- The requests still to be taken replaced. -/
def State.setReqs (s : State) (reqs : List Request) : State := { s with reqs := reqs }

/-- The host CPU agent holds until the next `IRQ` (R38, R117). -/
def State.holdHost (s : State) : State := { s with suspend := true }

/-- The hold ends (R264). -/
def State.releaseHost (s : State) : State := { s with suspend := false }

/-- The reset contents of a buffer (R290): zero, or arbitrary words under `RESET_POLICY = ARBITRARY`. -/
def resetFill (policy : ResetPolicy) (draw : Nat) (sp : Space) : Fill :=
  match policy with
  | .zero => .zero
  | .arbitrary => .arbitrary draw sp

/-- The device reset of R290. The configuration, the history, the program image and the model's own fields stay, but for the
draw that arbitrary reset contents take. -/
def State.resetDevice (s : State) : State :=
  let blank := fun sp => Memory.blank (resetFill s.cfg.resetPolicy s.draws sp)
  { s with
    lb := Memory.blank .zero
    ctrl := ⟨blank (.ctrl .c0), blank (.ctrl .c1)⟩
    td := ⟨blank (.td .pf1), blank (.td .pf2), blank (.td .pf3), blank (.td .pf4)⟩
    rs := ⟨blank (.rs .pf1), blank (.rs .pf2), blank (.rs .pf3), blank (.rs .pf4)⟩
    pal := blank .pal
    sprLive := blank .sprLive
    sprBuf := blank .sprBuf
    frame := s.cfg.frame0
    suspend := false
    dirty := ⟨BitVec.allOnes 2048, BitVec.allOnes 2048, BitVec.allOnes 2048, BitVec.allOnes 2048⟩
    usedSprColours := []
    draws := match s.cfg.resetPolicy with
      | .zero => s.draws
      | .arbitrary => s.draws + 1 }

/-- An answer of a write under its lane-mask check (R65): refused where the mask is no lane mask. -/
def guardMask (mask : Word) (t : State) : Host.Outcome State Fault Refusal :=
  if isLaneMask mask then .next t else .refused .badMask

/-- The refusal a decoder error becomes (R96). -/
def refusalOf : DecodeError → Refusal
  | .reservedBits => .reservedBits
  | .reservedEvent => .reservedEvent
  | .reservedWindow => .reservedWindow
  | .oddOffset => .oddOffset
  | .wrongDirection => .wrongDirection
  | .outOfWindow => .outOfWindow

end Sys2Proof.Machine
end

