-- ==== Sys2Proof/Machine/Events.lean ====
section
/-! DEFINITION. The scheduler's events IRQ and RESET (R264, R290). -/

namespace Sys2Proof.Machine

/-- IRQ: the periodic video interrupt as the device sees it: it ends the hold, and nothing else (R264). -/
def execIrq (s : State) : Host.Outcome State Fault Refusal := .next s.releaseHost

/-- RESET: reset the device (R290). -/
def execReset (s : State) : Host.Outcome State Fault Refusal := .next s.resetDevice

end Sys2Proof.Machine
end

