-- ==== Sys2Proof/Machine/Operands.lean ====
section
/-! DEFINITION. Operand forms: the word a transaction addresses (R93), the masked store and the read every window shares
(R140), and the control-block and sprite fields the compositor reads (R28, R230). -/

namespace Sys2Proof.Machine

/-- The word index of a byte offset, `OFF >> 1` (R63, R93). -/
def wordIndex (off : BitVec 17) : Nat := off.toNat / 2

/-- The masked store every write shares (R140): the combine-write of the addressed word. -/
def State.storeMasked (s : State) (sp : Space) (off : BitVec 17) (data mask : Word) : State :=
  s.setMem sp ((s.mem sp).combineAt (wordIndex off) data mask)

/-- The read every readable buffer shares (R140): the stored word is returned. -/
def State.readBack (s : State) (sp : Space) (off : BitVec 17) : State :=
  s.respond (s.wordAt sp (wordIndex off))

/-- The slot of a layer (R25). -/
def State.slotOf (s : State) (L : Layer) : SlotAt := s.cfg.control.slots.get L

/-- A word of the control block that feeds a layer (R28). -/
def State.layerCtrl (s : State) (L : Layer) (w : Nat) : Word := s.wordAt (.ctrl (s.slotOf L).block) w

/-- `STYLE(L)`, 3 bits (R28). -/
def State.style (s : State) (L : Layer) : BitVec 3 :=
  (s.layerCtrl L s.cfg.control.styleWord).extractLsb' (s.cfg.control.styleLsb (s.slotOf L).slot) 3

/-- `SCROLLX(L)` (R28). -/
def State.scrollX (s : State) (L : Layer) : Word :=
  s.layerCtrl L (s.cfg.control.scrollXWord (s.slotOf L).slot)

/-- `SCROLLY(L)` (R28). -/
def State.scrollY (s : State) (L : Layer) : Word :=
  s.layerCtrl L (s.cfg.control.scrollYWord (s.slotOf L).slot)

/-- `BANK[pf2]` (R29). -/
def State.bankPf2 (s : State) : BitVec 8 :=
  (s.wordAt (.ctrl .c0) s.cfg.control.bankWord).extractLsb' s.cfg.control.bankLsbPf2 8

/-- `BANK[pf3]` (R29). -/
def State.bankPf3 (s : State) : BitVec 8 :=
  (s.wordAt (.ctrl .c0) s.cfg.control.bankWord).extractLsb' s.cfg.control.bankLsbPf3 8

/-- A field of buffered sprite entry e: `width` bits of word 4e + f.word from bit f.lsb on (R230). Where a layout names a word
beyond the entry's four or bits beyond bit 15, that word is a later entry's and those bits read zero: the spec gives no such
layout, and the model's choice is log entry 14. -/
def State.spriteField (s : State) (e : Nat) (f : FieldAt) (width : Nat) : BitVec width :=
  (s.wordAt .sprBuf (4 * e + f.word)).extractLsb' f.lsb width

/-- `tile(e)`, the sprite number after the per-game mask (R231). -/
def State.spriteTile (s : State) (e : Nat) : Word :=
  s.spriteField e s.cfg.sprite.tile 16 &&& s.cfg.spriteMask

/-- `COLOUR(e)` (R230). -/
def State.spriteColour (s : State) (e : Nat) : BitVec 5 := s.spriteField e s.cfg.sprite.colour 5

/-- `xt(e)` (R231). -/
def State.spriteX (s : State) (e : Nat) : Int := 240 - s9 (s.spriteField e s.cfg.sprite.x 9)

/-- `yt(e)` (R231). -/
def State.spriteY (s : State) (e : Nat) : Int := 240 - s9 (s.spriteField e s.cfg.sprite.y 9)

/-- `n(e)`, the height factor 1, 2, 4 or 8 (R231). -/
def State.spriteHeight (s : State) (e : Nat) : Nat := 1 <<< (s.spriteField e s.cfg.sprite.height 2).toNat

end Sys2Proof.Machine
end

