-- ==== Sys2Proof/Machine/Flags.lean ====
section
/-! DEFINITION. The single-bit state that decisions read (R41). The device has no condition codes and no arithmetic flags;
SUSPEND is the state's field `suspend`. -/

namespace Sys2Proof.Machine

/-- `FLIP`, the global flip-screen flag (R27). -/
def State.flip (s : State) : Bool := (s.wordAt (.ctrl .c1) flipWord &&& flipMask) != 0#16

/-- `RS_EN(L)`, rowscroll enable (R28). -/
def State.rowscrollOn (s : State) (L : Layer) : Bool :=
  (s.layerCtrl L s.cfg.control.modeWord &&& s.cfg.control.rsMask (s.slotOf L).slot) != 0#16

/-- `CS_EN(L)`, colscroll enable (R28); meaningful for pf3 and pf4 only. -/
def State.colscrollOn (s : State) (L : Layer) : Bool :=
  (s.layerCtrl L s.cfg.control.modeWord &&& s.cfg.control.csMask (s.slotOf L).slot) != 0#16

/-- `FLASH(e)` (R230). -/
def State.spriteFlash (s : State) (e : Nat) : Bool := s.spriteField e s.cfg.sprite.flash 1 == 1#1

/-- `FX(e)` (R230). -/
def State.spriteFlipX (s : State) (e : Nat) : Bool := s.spriteField e s.cfg.sprite.flipX 1 == 1#1

/-- `FY(e)` (R230). -/
def State.spriteFlipY (s : State) (e : Nat) : Bool := s.spriteField e s.cfg.sprite.flipY 1 == 1#1

/-- `PRI(e)`, the priority group (R230, R234). -/
def State.spritePriority (s : State) (e : Nat) : Bool := s.spriteField e s.cfg.sprite.priority 1 == 1#1

/-- `DIRTY[L][w]` (R39). -/
def State.isDirty (s : State) (L : Layer) (w : Nat) : Bool := (s.dirty.get L).getLsbD w

/-- `DIRTY[L][w] <- true` (R141). -/
def State.markDirty (s : State) (L : Layer) (w : Nat) : State :=
  { s with dirty := s.dirty.set L (s.dirty.get L ||| BitVec.twoPow 2048 w) }

end Sys2Proof.Machine
end

