-- ==== Sys2Proof/Machine/Loopback.lean ====
section
/-! DEFINITION. The protection device: LBW, PRD, PATCH (R110 to R122). -/

namespace Sys2Proof.Machine

/-- LBW: the loopback register's combine-write (R110). -/
def execLbw (off : BitVec 17) (data mask : Word) (s : State) : Host.Outcome State Fault Refusal :=
  guardMask mask (s.storeMasked .lb off data mask)

/-- An input-port read (R119): a draw, and the next draw is another. -/
def State.readInput (s : State) (p : PortId) : State :=
  { s with readData := Config.inputDraw s.draws p, draws := s.draws + 1 }

/-- The remapped read of a byte offset (R113). -/
def State.protRead (s : State) (off : Nat) : State :=
  match s.cfg.tableInUse.target off with
  | some (.loop i) => s.respond (s.wordAt .lb i.toNat)
  | some (.input p) => s.readInput p
  | some .yield => (s.holdHost.emit .yield).respond s.cfg.yieldValue
  | none => (s.emit (.unmappedRead off)).respond 0x0000#16

/-- PRD: the protection read through the variant's read table (R113). -/
def execPrd (off : BitVec 17) (s : State) : Host.Outcome State Fault Refusal :=
  .next (s.protRead off.toNat)

/-- The patch matches at image word i (R120): an opcode pattern there and a compare pattern 4 words before. -/
def patchMatches (p : PatchParams) (img : List Word) (i : Nat) : Bool :=
  match img[i]?, img[i - 4]? with
  | some o, some c => p.ops.contains o && p.cmps.contains c
  | some _, none => false
  | none, _ => false

/-- The five words from j on become the no-op word (R120). -/
def patchBlank (p : PatchParams) (img : List Word) (j : Nat) : List Word :=
  ((((img.set j p.nop).set (j + 1) p.nop).set (j + 2) p.nop).set (j + 3) p.nop).set (j + 4) p.nop

/-- The ascending scan of R120 over `count` word indices from i on, reading the image as it is being patched. It answers the
image and the indices of the compare words patched. -/
def patchScan (p : PatchParams) : Nat → Nat → List Word → List Word × List Nat
  | 0, _, img => (img, [])
  | count + 1, i, img =>
    if patchMatches p img i then
      let r := patchScan p count (i + 1) (patchBlank p img (i - 4))
      (r.1, (i - 4) :: r.2)
    else patchScan p count (i + 1) img

/-- The scan over the fixed region: word indices `PATCH_LO + 4` to `PATCH_HI` (R120, R122). -/
def patchRun (p : PatchParams) (img : List Word) : List Word × List Nat :=
  patchScan p (p.hi + 1 - (p.lo + 4)) (p.lo + 4) img

/-- The program image patched, and one event for each match (R120). -/
def State.patchImage (s : State) : State :=
  let r := patchRun s.cfg.patch s.img
  { s with img := r.1, hist := s.hist ++ r.2.map Event.patched }

/-- PATCH: the load-time bootleg patch (R120); no effect outside the bootleg variant. A bootleg configuration that breaks
R121's condition is refused. -/
def execPatch (s : State) : Host.Outcome State Fault Refusal :=
  if s.cfg.bootleg = false then .next s
  else if s.cfg.patch.idempotent then .next s.patchImage
  else .refused .badPatchConfig

end Sys2Proof.Machine
end

