-- ==== Sys2Proof/Machine/Scroll.lean ====
section
/-! DEFINITION. Bank and scroll resolve of a frame (R182 to R189). -/

namespace Sys2Proof.Machine

/-- The graphics region of a layer (R29, R182). -/
def State.region (s : State) : Layer → Region
  | .pf1 => .chars
  | .pf2 => if s.cfg.control.bankSelects s.bankPf2 then .tilesB else .tilesA
  | .pf3 => if s.cfg.control.bankSelects s.bankPf3 then .tilesB else .tilesA
  | .pf4 => s.cfg.pf4Region

/-- The row-count table of the 16x16 layers (R183). -/
def rows16 (style : Nat) : Nat := [512, 256, 128, 64, 32, 16, 8, 4].getD style 1

/-- The row-count table of the 8x8 layer (R183). -/
def rows8 (style : Nat) : Nat := [256, 128, 64, 32, 16, 8, 4, 2].getD style 1

/-- The row count of a layer for a style (R183, R184): pf1 takes the 8x8 table. -/
def rowCount (L : Layer) (style : Nat) : Nat :=
  match L with
  | .pf1 => rows8 style
  | .pf2 => rows16 style
  | .pf3 => rows16 style
  | .pf4 => rows16 style

/-- Rowscroll mode (R185). -/
def State.rowscrollCfg (s : State) (L : Layer) : ScrollCfg :=
  let n := rowCount L (s.style L).toNat
  ⟨n, 1, (List.range n).map (fun i => s.scrollX L + s.wordAt (.rs L) i), [s.scrollY L]⟩

/-- Colscroll mode with its split column (R186). -/
def State.colscrollCfg (s : State) (L : Layer) (split : Nat) : ScrollCfg :=
  ⟨1, 64, [s.scrollX L],
    (List.range 64).map (fun c =>
      if split ≤ c then s.scrollY L + s.wordAt (.rs L) (colscrollBase + c) else s.scrollY L)⟩

/-- Fixed mode (R187). -/
def State.fixedCfg (s : State) (L : Layer) : ScrollCfg := ⟨1, 1, [s.scrollX L], [s.scrollY L]⟩

/-- `ResolveScroll(L)` (R184): rowscroll is tested first (R188). -/
def State.resolveScroll (s : State) (L : Layer) : ScrollCfg :=
  if s.rowscrollOn L then s.rowscrollCfg L
  else match s.cfg.colsplit L with
    | some split => if s.colscrollOn L then s.colscrollCfg L split else s.fixedCfg L
    | none => s.fixedCfg L

end Sys2Proof.Machine
end

