-- ==== Sys2Proof/Machine/Sprites.lean ====
section
/-! DEFINITION. The sprite layer (R230 to R240) and the palette-usage scan (R196). -/

namespace Sys2Proof.Machine

/-- An entry with the masked tile number 0 is absent (R232). -/
def State.spriteAbsent (s : State) (e : Nat) : Bool := s.spriteTile e == 0#16

/-- The flash strobe skips the entry in this frame (R233). -/
def State.spriteStrobed (s : State) (e : Nat) : Bool := s.spriteFlash e && s.frame % 2 == 1

/-- The X reject (R235). -/
def State.spriteOffX (s : State) (e : Nat) : Bool := decide (256 < s.spriteX e)

/-- The entry is skipped in the pass of group g (R232 to R235). -/
def State.spriteSkipped (s : State) (g : Bool) (e : Nat) : Bool :=
  s.spriteAbsent e || s.spritePriority e != g || s.spriteStrobed e || s.spriteOffX e

/-- The base tile of an entry (R236, D29). -/
def State.spriteBase (s : State) (e : Nat) : Word :=
  if s.cfg.sprTileAlign then
    let a := s.spriteTile e &&& ~~~(BitVec.ofNat 16 (s.spriteHeight e - 1))
    if s.spriteFlipY e then a else a + BitVec.ofNat 16 (s.spriteHeight e - 1)
  else s.spriteTile e

/-- Cell k of an entry (R236): the tile steps by +1 with Y-flip and by -1 without, mod 2^16, and Y by -16. -/
def State.spriteCell (s : State) (e k : Nat) : Cell where
  tile := if s.spriteFlipY e then s.spriteBase e + BitVec.ofNat 16 k else s.spriteBase e - BitVec.ofNat 16 k
  colour := s.spriteColour e
  flipX := s.spriteFlipX e
  flipY := s.spriteFlipY e
  x := s.spriteX e
  y := s.spriteY e - 16 * k

/-- The cells an entry puts into the pass of group g (R236). -/
def State.entryCells (s : State) (g : Bool) (e : Nat) : List Cell :=
  if s.spriteSkipped g e then [] else (List.range (s.spriteHeight e)).map (s.spriteCell e)

/-- `DrawSprites(g)` (R236): the entries in ascending index. -/
def State.drawSprites (s : State) (g : Bool) : List Cell :=
  (List.range s.cfg.spriteEntries).flatMap (s.entryCells g)

/-- The draw call the sprite primitive receives for a cell (R238). -/
def drawCall (flip : Bool) (c : Cell) : Cell :=
  if flip then ⟨c.tile, c.colour, !c.flipX, !c.flipY, 240 - c.x, 240 - c.y⟩ else c

/-- An entry counts for the palette usage (R196): present and not beyond the X range, whatever its priority or flash bit. -/
def State.usesColour (s : State) (col : BitVec 5) (e : Nat) : Bool :=
  !s.spriteAbsent e && !s.spriteOffX e && s.spriteColour e == col

/-- `UsedColours(SPR_BUF)`, ascending (R196). -/
def State.usedColours (s : State) : List (BitVec 5) :=
  ((List.range 32).map (BitVec.ofNat 5)).filter (fun col =>
    (List.range s.cfg.spriteEntries).any (s.usesColour col))

end Sys2Proof.Machine
end

