-- ==== Sys2Proof/Machine/Pixels.lean ====
section
/-! DEFINITION. The reference pixel semantics of the external library (R200 to R203, R237, D32), over any pen oracle. -/

namespace Sys2Proof.Machine

/-- A pen oracle: (region, tile, px, py) to pen. `Config.gfxPen` is the machine's (R6 `GFXPEN`). -/
abbrev PenRom := Region → Word → Nat → Nat → Pen

/-- The pens a class draws (R191). -/
def PenClass.draws (k : PenClass) (p : Pen) : Bool :=
  match k with
  | .opaquePens => true
  | .transparent => decide (1 ≤ p.toNat)
  | .back => decide (1 ≤ p.toNat ∧ p.toNat ≤ 7)
  | .front => decide (8 ≤ p.toNat)

/-- Tile size in pixels (R32). -/
def tileSize : Layer → Nat
  | .pf1 => 8
  | .pf2 => 16
  | .pf3 => 16
  | .pf4 => 16

/-- The map position of a screen position, (mx, my), for tile size T (R201): rowscroll rows and colscroll columns are in map
space. -/
def ScrollCfg.mapPos (k : ScrollCfg) (T sx sy : Nat) : Nat × Nat :=
  let W := 64 * T
  let H := 32 * T
  if k.cols = 1 then
    let my := (sy + (k.ys.getD 0 0#16).toNat) % H
    let r := my * k.rows / H
    ((sx + (k.xs.getD r 0#16).toNat) % W, my)
  else
    let mx := (sx + (k.xs.getD 0 0#16).toNat) % W
    (mx, (sy + (k.ys.getD (mx / T) 0#16).toNat) % H)

/-- The tile word of a layer under a map position (R33, R201). -/
def State.tileWord (s : State) (L : Layer) (T mx my : Nat) : Word :=
  s.wordAt (.td L) (s.cfg.tileScan.index (mx / T) (my / T))

/-- The pen of a layer pass at an unflipped screen position (R201). -/
def State.layerPen (rom : PenRom) (s : State) (p : LayerPass) (sx sy : Nat) : Pen :=
  let pos := p.cfg.mapPos p.tileSize sx sy
  rom p.region (s.tileWord p.layer p.tileSize pos.1 pos.2 &&& s.cfg.tileMask)
    (pos.1 % p.tileSize) (pos.2 % p.tileSize)

/-- The palette index of a layer pass at an unflipped screen position, before its class (R190, R201): the formula's
value as it is, also where it lies beyond the range of R198 (log entry 33). -/
def State.layerIndex (rom : PenRom) (s : State) (p : LayerPass) (sx sy : Nat) : Nat :=
  let pos := p.cfg.mapPos p.tileSize sx sy
  p.palBase + 16 * (s.tileWord p.layer p.tileSize pos.1 pos.2 >>> s.cfg.colourShift).toNat
    + (s.layerPen rom p sx sy).toNat

/-- What a layer pass draws at an unflipped screen position (R191, R201). -/
def State.layerPixel (rom : PenRom) (s : State) (p : LayerPass) (sx sy : Nat) : Option Nat :=
  if p.pens.draws (s.layerPen rom p sx sy) then some (s.layerIndex rom p sx sy) else none

/-- A position of the 256 x 256 screen (R200). -/
def onScreen (sx sy : Nat) : Bool := decide (sx ≤ 255 ∧ sy ≤ 255)

/-- A cell covers a position (R237). -/
def Cell.covers (c : Cell) (sx sy : Nat) : Bool :=
  decide (c.x ≤ sx ∧ (sx : Int) < c.x + 16 ∧ c.y ≤ sy ∧ (sy : Int) < c.y + 16)

/-- The pen of a cell at a screen position it covers (R237). -/
def Cell.pen (rom : PenRom) (c : Cell) (sx sy : Nat) : Pen :=
  let i := ((sx : Int) - c.x).toNat
  let j := ((sy : Int) - c.y).toNat
  rom .sprites c.tile (if c.flipX then 15 - i else i) (if c.flipY then 15 - j else j)

/-- What a cell draws at a position (R237): nothing off the screen, and pen 0 is transparent. The palette index is the formula's
value, also where it lies beyond the range of R198 (log entry 33). -/
def Cell.pixel (rom : PenRom) (base : Nat) (c : Cell) (sx sy : Nat) : Option Nat :=
  if onScreen sx sy && c.covers sx sy && c.pen rom sx sy != 0#4 then some (base + 16 * c.colour.toNat + (c.pen rom sx sy).toNat)
  else none

/-- A later drawing over an earlier one (R202). -/
def drawOver (below above : Option Nat) : Option Nat :=
  match above with
  | some v => some v
  | none => below

/-- What a pass draws at an unflipped screen position (R201, R237): the cells of a sprite pass in list order. -/
def State.passPixel (rom : PenRom) (s : State) (p : Pass) (sx sy : Nat) : Option Nat :=
  match p with
  | .layer lp => s.layerPixel rom lp sx sy
  | .sprites _ cells => (cells.map (fun c => c.pixel rom s.cfg.palBaseSpr sx sy)).foldl drawOver none

/-- `P0`, the painter's result at an unflipped screen position (R202): undefined at first, then the passes in plan order. -/
def State.paint (rom : PenRom) (s : State) (passes : List Pass) (sx sy : Nat) : Option Nat :=
  (passes.map (fun p => s.passPixel rom p sx sy)).foldl drawOver none

/-- `Pixels(passes, f)` at a screen position (R200): mirrored on both axes of the 256 x 256 screen when flipped. -/
def State.pixel (rom : PenRom) (s : State) (passes : List Pass) (f : Bool) (sx sy : Nat) : Option Nat :=
  if f then s.paint rom passes (255 - sx) (255 - sy) else s.paint rom passes sx sy

/-- The numbers from lo to hi, both included. -/
def span (lo hi : Nat) : List Nat := (List.range (hi + 1 - lo)).map (lo + ·)

/-- The pixels of the visible window, row by row (R198, R200): of its positions, those on the screen. -/
def State.bitmap (rom : PenRom) (s : State) (passes : List Pass) (f : Bool) : List (List (Option Nat)) :=
  (span s.cfg.vis.y0 (min s.cfg.vis.y1 255)).map (fun sy =>
    (span s.cfg.vis.x0 (min s.cfg.vis.x1 255)).map (fun sx => s.pixel rom passes f sx sy))

end Sys2Proof.Machine
end

