-- ==== Sys2Proof/Machine/Render.lean ====
section
/-! DEFINITION. RENDER: the seven passes of a frame in their fixed order, the two events and the frame counter (R180, R190 to
R199). -/

namespace Sys2Proof.Machine

/-- `LayerPass(LayerParams(L, ResolveScroll(L)), class)` (R180, R190). -/
def State.layerPass (s : State) (L : Layer) (k : PenClass) : Pass :=
  .layer ⟨L, tileSize L, s.resolveScroll L, s.region L, s.cfg.palBase.get L, k⟩

/-- `SpritePass(g, DrawSprites(g))` (R180, R194). -/
def State.spritePass (s : State) (g : Bool) : Pass := .sprites g (s.drawSprites g)

/-- Step 7 of R180, the draw order of R193. -/
def State.renderPasses (s : State) : List Pass :=
  [s.layerPass .pf2 .opaquePens,
   s.layerPass .pf3 .transparent,
   s.layerPass .pf4 .back,
   s.spritePass false,
   s.layerPass .pf4 .front,
   s.spritePass true,
   s.layerPass .pf1 .transparent]

/-- The render plan of this frame (R197, R198). -/
def State.renderPlan (s : State) : Plan := ⟨s.frame, s.flip, s.renderPasses⟩

/-- The bitmap of this frame over the machine's pen oracle (R198). -/
def State.renderBitmap (s : State) : List (List (Option Nat)) :=
  s.bitmap Config.gfxPen s.renderPasses s.flip

/-- The state after a frame (R180): the plan and the bitmap are of the state before it, and the counter steps after them
(R199). -/
def State.rendered (s : State) : State :=
  { s with
    usedSprColours := s.usedColours
    hist := s.hist ++ [.plan s.renderPlan, .bitmap s.frame s.renderBitmap]
    frame := s.frame + 1 }

/-- RENDER: render one frame (R180). -/
def execRender (s : State) : Host.Outcome State Fault Refusal := .next s.rendered

end Sys2Proof.Machine
end

