-- ==== Sys2Proof/Machine/VideoBus.lean ====
section
/-! DEFINITION. The compositor's bus interface: tile data, rowscroll, control, palette, sprite RAM, DMA flag and sound latch
(R140 to R156). -/

namespace Sys2Proof.Machine

/-- TDW: tile-data write; the cell is marked dirty (R141). -/
def execTdw (L : Layer) (off : BitVec 17) (data mask : Word) (s : State) : Host.Outcome State Fault Refusal :=
  guardMask mask ((s.storeMasked (.td L) off data mask).markDirty L (wordIndex off))

/-- TDR: tile-data read (R142). -/
def execTdr (L : Layer) (off : BitVec 17) (s : State) : Host.Outcome State Fault Refusal :=
  .next (s.readBack (.td L) off)

/-- RSW: rowscroll-buffer write (R143). -/
def execRsw (L : Layer) (off : BitVec 17) (data mask : Word) (s : State) : Host.Outcome State Fault Refusal :=
  guardMask mask (s.storeMasked (.rs L) off data mask)

/-- RSR: rowscroll-buffer read (R144). -/
def execRsr (L : Layer) (off : BitVec 17) (s : State) : Host.Outcome State Fault Refusal :=
  .next (s.readBack (.rs L) off)

/-- `CORRECT(b, off, data)`, the bootleg correction (R146), all arithmetic mod 2^16. -/
def correct (b : Block) (off : BitVec 17) (data : Word) : Word :=
  match b with
  | .c0 => if off = 0x06#17 then data + 0x000A#16 else data
  | .c1 =>
    if off = 0x02#17 then data - 0x0002#16
    else if off = 0x06#17 then data + 0x000A#16
    else data

/-- The value a control write combines in: corrected in the bootleg variant, before the mask (R145, R147). -/
def ctrlValue (c : Config) (b : Block) (off : BitVec 17) (data : Word) : Word :=
  if c.bootleg then correct b off data else data

/-- CTW: control-register write (R145). -/
def execCtw (b : Block) (off : BitVec 17) (data mask : Word) (s : State) : Host.Outcome State Fault Refusal :=
  guardMask mask (s.storeMasked (.ctrl b) off (ctrlValue s.cfg b off data) mask)

/-- The red component of palette entry e (R148). -/
def State.red (s : State) (e : Nat) : Byte := loLane (s.wordAt .pal (2 * e))

/-- The green component of palette entry e (R148). -/
def State.green (s : State) (e : Nat) : Byte := hiLane (s.wordAt .pal (2 * e))

/-- The blue component of palette entry e (R148). -/
def State.blue (s : State) (e : Nat) : Byte := loLane (s.wordAt .pal (2 * e + 1))

/-- `SetColor(e, DECODE(e))` (R148, R149). -/
def State.setColorEvent (s : State) (e : Nat) : Event := .setColor e (s.red e) (s.green e) (s.blue e)

/-- The palette store and, after it, the event of the entry (R150). -/
def State.storePalette (s : State) (off : BitVec 17) (data mask : Word) : State :=
  let t := s.storeMasked .pal off data mask
  t.emit (t.setColorEvent (wordIndex off / 2))

/-- PLW: palette write (R150). -/
def execPlw (off : BitVec 17) (data mask : Word) (s : State) : Host.Outcome State Fault Refusal :=
  guardMask mask (s.storePalette off data mask)

/-- PLR: palette read (R151). -/
def execPlr (off : BitVec 17) (s : State) : Host.Outcome State Fault Refusal :=
  .next (s.readBack .pal off)

/-- SRW: sprite-RAM write, the live copy (R152). -/
def execSrw (off : BitVec 17) (data mask : Word) (s : State) : Host.Outcome State Fault Refusal :=
  guardMask mask (s.storeMasked .sprLive off data mask)

/-- SRR: sprite-RAM read, the live copy (R153). -/
def execSrr (off : BitVec 17) (s : State) : Host.Outcome State Fault Refusal :=
  .next (s.readBack .sprLive off)

/-- DMA: all of `SPR_LIVE` copied into `SPR_BUF` in one step (R154). The data is ignored, and the mask beyond its lane-mask
check (log entry 8). -/
def execDma (_data mask : Word) (s : State) : Host.Outcome State Fault Refusal :=
  guardMask mask (s.setMem .sprBuf (s.mem .sprLive))

/-- What a sound-latch write does (R155): with the low lane selected, the latch event and then the interrupt event. -/
def State.latchSound (s : State) (data mask : Word) : State :=
  if selectsLo mask then (s.emit (.soundLatch (loLane data))).emit (.soundIrq s.cfg.soundLine) else s

/-- SLW: sound-latch write (R155). -/
def execSlw (data mask : Word) (s : State) : Host.Outcome State Fault Refusal :=
  guardMask mask (s.latchSound data mask)

end Sys2Proof.Machine
end

