-- ==== Sys2Proof/Machine/Dispatch.lean ====
section
/-! DEFINITION. One arm for each instruction of Instr, each one call of its meaning. -/

namespace Sys2Proof.Machine

def exec (i : Instr) (s : State) : Host.Outcome State Fault Refusal :=
  match i with
  | .lbw off data mask => Sys2Proof.Machine.execLbw off data mask s
  | .prd off => Sys2Proof.Machine.execPrd off s
  | .plr off => Sys2Proof.Machine.execPlr off s
  | .plw off data mask => Sys2Proof.Machine.execPlw off data mask s
  | .srr off => Sys2Proof.Machine.execSrr off s
  | .srw off data mask => Sys2Proof.Machine.execSrw off data mask s
  | .tdr L off => Sys2Proof.Machine.execTdr L off s
  | .tdw L off data mask => Sys2Proof.Machine.execTdw L off data mask s
  | .rsr L off => Sys2Proof.Machine.execRsr L off s
  | .rsw L off data mask => Sys2Proof.Machine.execRsw L off data mask s
  | .ctw b off data mask => Sys2Proof.Machine.execCtw b off data mask s
  | .dma data mask => Sys2Proof.Machine.execDma data mask s
  | .slw data mask => Sys2Proof.Machine.execSlw data mask s
  | .render => Sys2Proof.Machine.execRender s
  | .irq => Sys2Proof.Machine.execIrq s
  | .reset => Sys2Proof.Machine.execReset s
  | .patch => Sys2Proof.Machine.execPatch s

end Sys2Proof.Machine
end

