-- ==== Sys2Proof/Machine/Queue.lean ====
section
/-! DEFINITION. Which request is taken next. The requests of the host CPU and of the scheduler stand in one total order
(R72). While SUSPEND is true the host CPU agent holds (R265): its requests keep their place and get no step, and the first
scheduler event is taken as usual. -/

namespace Sys2Proof.Machine

/-- A request of the scheduler: its window id is that of a host event (R12, R92). Every other request is the host CPU's. -/
def fromScheduler (r : Request) : Bool := winField r.word == eventWin

/-- The first scheduler event, and the other requests in their order. -/
def firstEvent : List Request → Option (Request × List Request)
  | [] => none
  | r :: rest =>
    if fromScheduler r then some (r, rest)
    else match firstEvent rest with
      | some (e, others) => some (e, r :: others)
      | none => none

/-- The request taken next and the requests left (R72, R265). -/
def nextRequest (suspended : Bool) (reqs : List Request) : Option (Request × List Request) :=
  if suspended then firstEvent reqs
  else match reqs with
    | [] => none
    | r :: rest => some (r, rest)

/-- The next request is one of the table word, and the host CPU does not hold it back (R265). -/
def State.presentWord (s : State) (nbits w : Nat) : State :=
  let r := Request.ofTableWord nbits w
  { s with reqs := r :: s.reqs, suspend := s.suspend && fromScheduler r }

end Sys2Proof.Machine
end

