-- ==== Sys2Proof/Machine/Step.lean ====
section
/-! DEFINITION. One step of the machine: the next request is taken, decoded and executed. The device reacts only (R12): with
no request to take it stays as it is, and so it does while every request present is one the host CPU's hold keeps back
(R265, log entry 7). -/

namespace Sys2Proof.Machine

/-- One step (R11, R72). -/
def step (s : State) : Host.Outcome State Fault Refusal :=
  match nextRequest s.suspend s.reqs with
  | none => .next s
  | some (r, rest) =>
    match decode s.cfg r with
    | .reject e => .refused (refusalOf e)
    | .instr i => exec i (s.setReqs rest)

/-- The state in which the very next step takes the table word's request (log entry 9). -/
def State.withFetchWord (s : State) (nbits w : Nat) : State := s.presentWord nbits w

end Sys2Proof.Machine
end

