-- ==== Sys2Proof/Machine/HostBus.lean ====
section
/-! DEFINITION. The host's side of the bus: the address decode of R61, the lanes of a byte access (R64, R66), the
pseudo-instructions of R99 and the boot order of R292. -/

namespace Sys2Proof.Machine

/-- A host address lies in a run of a direction (R61). -/
def inRange (d : Dir) (a : Nat) (r : AddrRange) : Bool :=
  decide (r.dir = d ∧ r.base ≤ a ∧ a < r.base + r.length)

/-- `ADDR_DECODE` in one direction: the window and the byte offset of a host address; none where it is not the device's
(R61). Where runs overlap, the first counts (log entry 29). -/
def addrDecode (c : Config) (d : Dir) (a : Nat) : Option (Window × Nat) :=
  match c.addrMap.find? (inRange d a) with
  | some r => some (r.window, r.first + (a - r.base))
  | none => none

/-- The window and the 17-bit `OFF` of a host address; none where the offset does not fit, since no request word names it
(R90, log entry 29). -/
def hostTarget (c : Config) (d : Dir) (a : Nat) : Option (Window × BitVec 17) :=
  match addrDecode c d a with
  | some (w, off) => if off < 2 ^ 17 then some (w, BitVec.ofNat 17 off) else none
  | none => none

/-- The even offset of the word a byte offset lies in (R66). -/
def evenOffset (off : BitVec 17) : BitVec 17 := off &&& 0x1FFFE#17

/-- The request of a host word read (R63, R66). The decoder refuses it where the window has no reads (R68). -/
def hostReadWord (c : Config) (a : Nat) : Option Request :=
  match hostTarget c .read a with
  | some (w, off) => some (readRequest w off)
  | none => none

/-- The request of a host word write (R63, R66). The decoder refuses it where the window has no writes (R68). -/
def hostWriteWord (c : Config) (a : Nat) (v : Word) : Option Request :=
  match hostTarget c .write a with
  | some (w, off) => some (writeRequest w off v 0xFFFF#16)
  | none => none

/-- The low-lane form `.L` of R99. -/
def lowLaneWrite (w : Window) (off : BitVec 17) (b : Byte) : Request :=
  writeRequest w off (ofLanes 0#8 b) 0x00FF#16

/-- The high-lane form `.H` of R99. -/
def highLaneWrite (w : Window) (off : BitVec 17) (b : Byte) : Request :=
  writeRequest w off (ofLanes b 0#8) 0xFF00#16

/-- The request of a host byte write (R64, R66): the even word offset with a one-lane mask, an even host address being the high
lane (D4, log entry 10). -/
def hostWriteByte (c : Config) (a : Nat) (b : Byte) : Option Request :=
  match hostTarget c .write a with
  | some (w, off) =>
    if a % 2 = 0 then some (highLaneWrite w (evenOffset off) b) else some (lowLaneWrite w (evenOffset off) b)
  | none => none

/-- The request of a host byte read (R64, R69): the device is asked for the even word offset. -/
def hostReadByte (c : Config) (a : Nat) : Option Request :=
  match hostTarget c .read a with
  | some (w, off) => some (readRequest w (evenOffset off))
  | none => none

/-- The lane the host takes, at a host byte address, from the word the device returns (R64, R69). -/
def hostByteOf (a : Nat) (v : Word) : Byte := if a % 2 = 0 then hiLane v else loLane v

/-- `SETCOL e, r, g, b` (R99). For an entry whose offsets do not fit the 17-bit `OFF` there is no expansion: R99 is silent, and
the model's choice is log entry 32. -/
def setcol (e : Nat) (r g b : Byte) : Option (List Instr) :=
  if 4 * e + 2 < 2 ^ 17 then
    some [.plw (BitVec.ofNat 17 (4 * e)) (ofLanes g r) 0xFFFF#16,
      .plw (BitVec.ofNat 17 (4 * e + 2)) (ofLanes 0#8 b) 0xFFFF#16]
  else none

/-- `SPRITE n, w0, w1, w2` (R99). For an entry whose offsets do not fit the 17-bit `OFF` there is no expansion: R99 is silent,
and the model's choice is log entry 32. -/
def sprite (n : Nat) (w0 w1 w2 : Word) : Option (List Instr) :=
  if 8 * n + 4 < 2 ^ 17 then
    some [.srw (BitVec.ofNat 17 (8 * n)) w0 0xFFFF#16,
      .srw (BitVec.ofNat 17 (8 * n + 2)) w1 0xFFFF#16,
      .srw (BitVec.ofNat 17 (8 * n + 4)) w2 0xFFFF#16]
  else none

/-- `VBLANK` (R99): RENDER and then IRQ, the order of R266. -/
def vblank : List Instr := [.render, .irq]

/-- Steps 3 and 4 of the boot order (R292): the patch in the bootleg variant, then the power-on reset. -/
def bootEvents (c : Config) : List Instr := if c.bootleg then [.patch, .reset] else [.reset]

end Sys2Proof.Machine
end

