-- ==== Sys2Proof/Safety.lean ====
section
/-! DEFINITION. The terms the claims are stated in: frames, canonical states, legal requests and the safe runs they make, and
the bytes and buffers an instruction may store to. -/

namespace Sys2Proof.Machine

/-- A part of the state a frame speaks of. -/
inductive Part where
  | cfg
  | mem (sp : Space)
  | frame | suspend
  | dirty (L : Layer)
  | usedSprColours | hist | img | reqs | readData | draws
  deriving DecidableEq, Repr

/-- The part is the same in both states; of a buffer, every byte reads the same. -/
def Part.Same (p : Part) (s t : State) : Prop :=
  match p with
  | .cfg => t.cfg = s.cfg
  | .mem sp => ∀ a, (t.mem sp).readByte a = (s.mem sp).readByte a
  | .frame => t.frame = s.frame
  | .suspend => t.suspend = s.suspend
  | .dirty L => t.dirty.get L = s.dirty.get L
  | .usedSprColours => t.usedSprColours = s.usedSprColours
  | .hist => t.hist = s.hist
  | .img => t.img = s.img
  | .reqs => t.reqs = s.reqs
  | .readData => t.readData = s.readData
  | .draws => t.draws = s.draws

/-- Every part of the state but those listed is the same in both states. -/
def Frame (changed : List Part) (s t : State) : Prop := ∀ p, p ∉ changed → p.Same s t

/-- Every memory is in its canonical form and the palette-usage set is listed in ascending order. -/
def State.Canonical (s : State) : Prop :=
  (∀ sp, (s.mem sp).wf) ∧ s.usedSprColours.Pairwise (fun a b => a.toNat < b.toNat)

/-- Every listed byte of a window's buffer lies inside the window (R60): what the decoder's bound check (R67) keeps true. -/
def State.InWindows (s : State) : Prop :=
  (∀ p ∈ s.lb.cells, p.1 < Window.protW.size s.cfg) ∧
  (∀ b, ∀ p ∈ (s.ctrl.get b).cells, p.1 < (Window.ctrl b).size s.cfg) ∧
  (∀ L, ∀ p ∈ (s.td.get L).cells, p.1 < (Window.td L).size s.cfg) ∧
  (∀ L, ∀ p ∈ (s.rs.get L).cells, p.1 < (Window.rsb L).size s.cfg) ∧
  (∀ p ∈ s.pal.cells, p.1 < Window.pal.size s.cfg) ∧
  (∀ p ∈ s.sprLive.cells, p.1 < Window.spr.size s.cfg) ∧
  (∀ p ∈ s.sprBuf.cells, p.1 < Window.spr.size s.cfg)

/-- Nothing but the mask check (R65) and the patch condition (R121) can stop a decoded instruction; this one passes them. -/
def Instr.Executable (c : Config) (i : Instr) : Prop :=
  (∀ m, i.laneMask = some m → isLaneMask m = true) ∧
  (i = .patch → c.bootleg = true → c.patch.idempotent = true)

/-- The request decodes, and its instruction passes the checks made at execution. -/
def LegalRequest (c : Config) (r : Request) : Prop :=
  ∃ i, decode c r = .instr i ∧ Instr.Executable c i

/-- A safe state: every request presented is legal. -/
def State.Safe (s : State) : Prop := ∀ r ∈ s.reqs, LegalRequest s.cfg r

/-- The buffer an instruction stores a word to (R60, R140); none for a read, for an event, and for the two one-word command
windows. -/
def storeSpace : Instr → Option Space
  | .lbw _ _ _ => some .lb
  | .prd _ => none
  | .plr _ => none
  | .plw _ _ _ => some .pal
  | .srr _ => none
  | .srw _ _ _ => some .sprLive
  | .tdr _ _ => none
  | .tdw L _ _ _ => some (.td L)
  | .rsr _ _ => none
  | .rsw L _ _ _ => some (.rs L)
  | .ctw b _ _ _ => some (.ctrl b)
  | .dma _ _ => none
  | .slw _ _ => none
  | .render => none
  | .irq => none
  | .reset => none
  | .patch => none

/-- The byte offset a is one of the bytes a write of word w under a lane mask stores to (R64, R65): the high lane's byte, the
low lane's, or both. -/
def StoredByte (w : Nat) (mask : Word) (a : Nat) : Prop :=
  (a = hiOffset w ∧ selectsHi mask = true) ∨ (a = loOffset w ∧ selectsLo mask = true)

/-- A match of the patch at image word i (R120), in the rule's words: `IMG[i] in PATCH_OPS` and `IMG[i-4] in PATCH_CMPS`, at a
word index of the region from which the scan reads, `PATCH_LO + 4` to `PATCH_HI`. -/
def PatchMatch (p : PatchParams) (img : List Word) (i : Nat) : Prop :=
  p.lo + 4 ≤ i ∧ i ≤ p.hi ∧ (∃ o, img[i]? = some o ∧ o ∈ p.ops) ∧ ∃ c, img[i - 4]? = some c ∧ c ∈ p.cmps

/-- Every word of the device's buffers is zero. -/
def State.AllWordsZero (s : State) : Prop := ∀ sp w, s.wordAt sp w = 0#16

end Sys2Proof.Machine
end

