-- ==== Sys2Proof/Certificates/Slice0/Obligations.lean ====
section
/-! DEFINITION. The statements for the provers, from the numbered rules of the spec. Every statement is for every
configuration the state may stand in, unless a hypothesis names the layout it speaks of. -/

open Sys2Proof Sys2Proof.Machine

/-! ## Encoding -/

/-- Decode and encode agree (R90 to R95): the request of a well-formed instruction decodes to it. -/
def Obligations.EncodedInstrDecodesToItself : Prop :=
  ∀ (c : Config) (i : Instr), i.wellFormed c = true → decode c (encode i) = .instr i

/-- A decoded instruction is well formed, and its encoding is the request word it was read from, a write's with its operands
(R90, R94, R97). -/
def Obligations.DecodedInstrEncodesToItsWord : Prop :=
  ∀ (c : Config) (r : Request) (i : Instr), decode c r = .instr i →
    i.wellFormed c = true ∧ (encode i).word = r.word ∧
    (∀ m, i.laneMask = some m → m = r.mask ∧ (encode i).data = r.data ∧ (encode i).mask = r.mask)

/-- The opcode map of R95 and the decoder of R94: a decoded word matches the row of its mnemonic and no other row; a word that
matches a row decodes to that row's mnemonic or lies outside its window; a word no row matches is refused (R96). -/
def Obligations.OpcodeMapAndDecoderAgree : Prop :=
  ∀ (c : Config) (r : Request),
    (∀ i, decode c r = .instr i → ∀ row ∈ opcodeMap, (row.matches r.word = true ↔ row.mnemonic = i.mnemonic)) ∧
    (∀ row ∈ opcodeMap, row.matches r.word = true →
      decode c r = .reject .outOfWindow ∨ ∃ i, decode c r = .instr i ∧ i.mnemonic = row.mnemonic) ∧
    ((∀ row ∈ opcodeMap, row.matches r.word = false) → ∃ e, decode c r = .reject e ∧ e ≠ .outOfWindow)

/-- The decoder's checks in the order of R94: each refusal holds exactly where its check fails and every check before it
passes. The bound of the last one is the window's byte size, and the windows, their ids and their sizes are those of R60. -/
def Obligations.DecodeRefusalsInOrder : Prop :=
  ∀ (c : Config) (r : Request),
    let rsv := rsvField r.word
    let win := (winField r.word).toNat
    let off := (offField r.word).toNat
    let dir := dirField r.word
    (decode c r = .reject .reservedBits ↔ rsv ≠ 0#9) ∧
    (decode c r = .reject .reservedEvent ↔ rsv = 0#9 ∧ win = 0x1F ∧ (dir = .write ∨ 3 < off)) ∧
    (decode c r = .reject .reservedWindow ↔ rsv = 0#9 ∧ 0x10 ≤ win ∧ win ≤ 0x1E) ∧
    (decode c r = .reject .oddOffset ↔ rsv = 0#9 ∧ win < 0x10 ∧ off % 2 = 1) ∧
    (decode c r = .reject .wrongDirection ↔ rsv = 0#9 ∧ win < 0x10 ∧ off % 2 = 0 ∧
      ((dir = .read ∧ win ∈ [0x00, 0x0C, 0x0D, 0x0E, 0x0F]) ∨ (dir = .write ∧ win = 0x01))) ∧
    (decode c r = .reject .outOfWindow ↔ ∃ w, rsv = 0#9 ∧ Window.ofId (winField r.word) = some w ∧ off % 2 = 0 ∧
      w.allows dir = true ∧ w.size c ≤ off) ∧
    (∀ (n : BitVec 5) (w : Window), Window.ofId n = some w ↔ (n.toNat, w, w.size c) ∈
      [(0x00, .protW, 0x200), (0x01, .protR, c.protRSize), (0x02, .pal, 4 * c.paletteEntries),
       (0x03, .spr, 8 * c.spriteEntries), (0x04, .td .pf1, 0x1000), (0x05, .td .pf2, 0x1000), (0x06, .td .pf3, 0x1000),
       (0x07, .td .pf4, 0x1000), (0x08, .rsb .pf1, 2 * c.rowscrollWords), (0x09, .rsb .pf2, 2 * c.rowscrollWords),
       (0x0A, .rsb .pf3, 2 * c.rowscrollWords), (0x0B, .rsb .pf4, 2 * c.rowscrollWords),
       (0x0C, .ctrl .c0, 2 * c.ctrlWords), (0x0D, .ctrl .c1, 2 * c.ctrlWords), (0x0E, .dma, 2), (0x0F, .sound, 2)])

/-- The worked encodings of R100, in a configuration whose read window holds offset 0x080 and whose other windows have the
default sizes. -/
def Obligations.WorkedEncodings : Prop :=
  ∀ (c : Config), 0x080 < c.protRSize → c.ctrlWords = 8 → c.rowscrollWords = 0x800 →
    decode c ⟨0x800001FE#32, 0x1234#16, 0xFFFF#16⟩ = .instr (.lbw 0x1FE#17 0x1234#16 0xFFFF#16) ∧
    decode c ⟨0x04000080#32, 0#16, 0#16⟩ = .instr (.prd 0x080#17) ∧
    decode c ⟨0xB000000C#32, 0x4000#16, 0xFFFF#16⟩ = .instr (.ctw .c0 0x0C#17 0x4000#16 0xFFFF#16) ∧
    decode c ⟨0xB4000002#32, 0x0100#16, 0xFFFF#16⟩ = .instr (.ctw .c1 0x02#17 0x0100#16 0xFFFF#16) ∧
    decode c ⟨0x9C000FFE#32, 0xF123#16, 0xFFFF#16⟩ = .instr (.tdw .pf4 0x0FFE#17 0xF123#16 0xFFFF#16) ∧
    decode c ⟨0x24000002#32, 0#16, 0#16⟩ = .instr (.rsr .pf2 0x0002#17) ∧
    decode c ⟨0xB8000000#32, 0#16, 0xFFFF#16⟩ = .instr (.dma 0#16 0xFFFF#16) ∧
    decode c ⟨0x7C000000#32, 0#16, 0#16⟩ = .instr .render ∧
    decode c ⟨0x7C000001#32, 0#16, 0#16⟩ = .instr .irq ∧
    decode c ⟨0x80000001#32, 0#16, 0#16⟩ = .reject .oddOffset ∧
    decode c ⟨0x00000000#32, 0#16, 0#16⟩ = .reject .wrongDirection ∧
    decode c ⟨0x30000000#32, 0#16, 0#16⟩ = .reject .wrongDirection ∧
    decode c ⟨0x40000000#32, 0#16, 0#16⟩ = .reject .reservedWindow

/-! ## The step and the hold -/

/-- A step runs the decoded request: with the host CPU not held, the first request presented is taken and executed, or
refused by the decoder's reason. -/
def Obligations.StepRunsTheFirstRequest : Prop :=
  ∀ (s : State) (r : Request) (rest : List Request), s.suspend = false → s.reqs = r :: rest →
    (∀ i, decode s.cfg r = .instr i → step s = exec i (s.setReqs rest)) ∧
    (∀ e, decode s.cfg r = .reject e → step s = .refused (refusalOf e))

/-- The hold (R265): while SUSPEND is true the host CPU's requests get no step, the first scheduler event behind them is
taken as usual, and after IRQ and after RESET the hold is over. The scheduler's requests are those of window id 0x1F (R92). The
model's own: that a held step answers the same state (log
entry 7), that the requests stand in one list in which the held ones keep their order (log entry 6), and that PATCH, which
R265 does not name, is taken as the other events are (log entry 28). -/
def Obligations.SuspendedHostGetsNoStep : Prop :=
  (∀ r : Request, fromScheduler r = true ↔ (winField r.word).toNat = 0x1F) ∧
  ∀ (s : State), s.suspend = true →
    ((∀ r ∈ s.reqs, fromScheduler r = false) → step s = .next s) ∧
    (∀ held e rest i, s.reqs = held ++ e :: rest → (∀ r ∈ held, fromScheduler r = false) →
      fromScheduler e = true → decode s.cfg e = .instr i → step s = exec i (s.setReqs (held ++ rest))) ∧
    (∃ t, exec .irq s = .next t ∧ t.suspend = false) ∧ (∃ t, exec .reset s = .next t ∧ t.suspend = false)

/-- A run of legal requests never stops: from a safe state every number of steps answers a next state, and that state is
safe. The steps include idle and held ones, which R11 and R265 give as no step and the model answers with the same state (log
entry 7). -/
def Obligations.LegalRequestsNeverStop : Prop :=
  ∀ (n : Nat) (s : State), s.Safe → ∃ t, Host.Core.run Sys2Proof.core n s = .next t ∧ t.Safe

/-! ## Invariants of every step -/

/-- Every step keeps the memories canonical and the palette-usage set ascending. -/
def Obligations.StepKeepsCanonicalForm : Prop :=
  ∀ (s t : State), s.Canonical → step s = .next t → t.Canonical

/-- The state after reset is canonical and lists no byte. -/
def Obligations.ResetStateIsCanonical : Prop :=
  State.reset.Canonical ∧ State.reset.InWindows ∧ State.reset.AllWordsZero

/-- Every step keeps every listed byte inside its window (R60, R67). -/
def Obligations.StepKeepsBytesInWindows : Prop :=
  ∀ (s t : State), s.InWindows → step s = .next t → t.InWindows

/-- No step changes the configuration record, RESET included (R291, R6). -/
def Obligations.ConfigurationIsImmutable : Prop :=
  ∀ (s t : State), step s = .next t → t.cfg = s.cfg

/-- The event history only grows at its end (R9 `emit`), and RESET keeps it (R290). -/
def Obligations.HistoryOnlyGrows : Prop :=
  ∀ (s t : State), step s = .next t → ∃ events, t.hist = s.hist ++ events

/-- SUSPEND changes only by the yield read, which sets it, and by IRQ and RESET, which clear it (R38, R41, R264, R265). -/
def Obligations.SuspendChangesOnlyByYieldIrqReset : Prop :=
  ∀ (i : Instr) (s t : State), exec i s = .next t → t.suspend ≠ s.suspend →
    (t.suspend = true ∧ ∃ off, i = .prd off ∧ s.cfg.tableInUse.target off.toNat = some .yield) ∨
    (t.suspend = false ∧ (i = .irq ∨ i = .reset))

/-- FRAME is stepped by RENDER, set to FRAME0 by RESET, and left by every other instruction (R37, R199, R271, R290); the
program image is changed by PATCH of the bootleg variant only (R120, R305). -/
def Obligations.FrameCounterAndImageWriters : Prop :=
  ∀ (i : Instr) (s t : State), exec i s = .next t →
    t.frame = (if i = .render then s.frame + 1 else if i = .reset then s.cfg.frame0 else s.frame) ∧
    (t.img ≠ s.img → i = .patch ∧ s.cfg.bootleg = true)

/-- Which instruction may change a byte of which buffer: its own write, the DMA for `SPR_BUF`, and RESET (R21, R24, R33 to
R36, R290). -/
def Obligations.BuffersHaveOneWriter : Prop :=
  ∀ (i : Instr) (s t : State) (sp : Space) (a : Nat), exec i s = .next t →
    (t.mem sp).readByte a ≠ (s.mem sp).readByte a →
    i = .reset ∨ storeSpace i = some sp ∨ (sp = .sprBuf ∧ ∃ data mask, i = .dma data mask)

/-! ## Lane masks and the stored bytes -/

/-- A write with a mask that is no lane mask is refused, one with a lane mask answers a next state; the lane masks are 0x00FF,
0xFF00 and 0xFFFF (R65). That this holds of DMA too, whose mask R154 says is ignored, is log entry 8 (DEDUCED). -/
def Obligations.WritesNeedALaneMask : Prop :=
  (∀ m : Word, isLaneMask m = true ↔ m = 0x00FF#16 ∨ m = 0xFF00#16 ∨ m = 0xFFFF#16) ∧
  (∀ (i : Instr) (s : State) (m : Word), i.laneMask = some m → isLaneMask m = false →
    exec i s = .refused .badMask) ∧
  (∀ (i : Instr) (s : State) (m : Word), i.laneMask = some m → isLaneMask m = true → ∃ t, exec i s = .next t)

/-- A masked store touches the lanes its mask selects of the word `off >> 1` of its buffer, and no other byte of any buffer
(R64, R69, R140). -/
def Obligations.StoresTouchOnlySelectedLanes : Prop :=
  ∀ (i : Instr) (s t : State) (target : Space) (m : Word), storeSpace i = some target → i.laneMask = some m →
    exec i s = .next t → ∀ (sp : Space) (a : Nat), ¬ (sp = target ∧ StoredByte (wordIndex i.off) m a) →
      (t.mem sp).readByte a = (s.mem sp).readByte a

/-! ## The protection device -/

/-- LBW (R110): the addressed loopback register is combined; no other register, no event, nothing else changes. -/
def Obligations.LbwCombinesItsRegister : Prop :=
  ∀ (s : State) (off : BitVec 17) (data mask : Word), isLaneMask mask = true →
    ∃ t, exec (.lbw off data mask) s = .next t ∧
      (∀ w, t.wordAt .lb w =
        if w = off.toNat / 2 then combine (s.wordAt .lb w) data mask else s.wordAt .lb w) ∧
      Frame [.mem .lb] s t

/-- Combine-write idempotence (R111): the second of two equal writes changes nothing, and in a canonical state it gives the
very same state. -/
def Obligations.LbwTwiceIsLbwOnce : Prop :=
  ∀ (s : State) (off : BitVec 17) (data mask : Word), isLaneMask mask = true →
    ∃ t u, exec (.lbw off data mask) s = .next t ∧ exec (.lbw off data mask) t = .next u ∧ Frame [] t u ∧
      (s.Canonical → u = t)

/-- Masked-write correctness (R112): after a write with mask 0x00FF the high byte of the register is unchanged and the low byte
is that of the data, and any `PRD` offset mapped to the register returns it. -/
def Obligations.LowByteWriteKeepsHighByte : Prop :=
  ∀ (s : State) (off : BitVec 17) (data : Word),
    ∃ t, exec (.lbw off data 0x00FF#16) s = .next t ∧
      hiLane (t.wordAt .lb (off.toNat / 2)) = hiLane (s.wordAt .lb (off.toNat / 2)) ∧
      loLane (t.wordAt .lb (off.toNat / 2)) = loLane data ∧
      (∀ (off' : BitVec 17) (i : BitVec 8), s.cfg.tableInUse.target off'.toNat = some (.loop i) →
        i.toNat = off.toNat / 2 →
        ∃ u, exec (.prd off') t = .next u ∧ u.readData = t.wordAt .lb (off.toNat / 2))

/-- PRD through the read table (R113, R114, R117, R119): a `Loop` entry returns its register; an `Input` entry returns the
run's next draw at the port, whatever it is; the yield entry sets SUSPEND, emits `Yield` and returns `YIELD_VALUE`. Nothing
else changes, and the draw counter is the model's own. -/
def Obligations.PrdFollowsTheReadTable : Prop :=
  ∀ (s : State) (off : BitVec 17),
    (∀ i, s.cfg.tableInUse.target off.toNat = some (.loop i) →
      ∃ t, exec (.prd off) s = .next t ∧ t.readData = s.wordAt .lb i.toNat ∧ Frame [.readData] s t) ∧
    (∀ p, s.cfg.tableInUse.target off.toNat = some (.input p) →
      ∃ t, exec (.prd off) s = .next t ∧ t.readData = Config.inputDraw s.draws p ∧ t.draws = s.draws + 1 ∧
        Frame [.readData, .draws] s t) ∧
    (s.cfg.tableInUse.target off.toNat = some .yield →
      ∃ t, exec (.prd off) s = .next t ∧ t.suspend = true ∧ t.hist = s.hist ++ [.yield] ∧
        t.readData = s.cfg.yieldValue ∧ Frame [.suspend, .hist, .readData] s t)

/-- PRD of an offset the table lacks (R116): it returns 0x0000 and changes no device state. That `UnmappedRead` is emitted is
the model's choice, since R116 lets a model drop it (D46, log entries 17 and 25). -/
def Obligations.PrdUnmappedReturnsZero : Prop :=
  ∀ (s : State) (off : BitVec 17), s.cfg.tableInUse.target off.toNat = none →
    ∃ t, exec (.prd off) s = .next t ∧ t.readData = 0x0000#16 ∧
      t.hist = s.hist ++ [.unmappedRead off.toNat] ∧ Frame [.readData, .hist] s t

/-- The read table in use (R118, D38): the bootleg uses the cninja table; otherwise `READ_TABLE` selects. In a configuration
that meets the constraints an offset is mapped exactly as the entries of that table say (R113, R114). With a table in which
only edrandy has yield entries (R117), a yield read happens on a non-bootleg edrandy board only. The bootleg's table is the
spec's decision D38 (log entry 17). -/
def Obligations.YieldOnlyOnEdrandy : Prop :=
  (∀ c : Config, c.tableInUse =
    if c.bootleg = true ∨ c.readTable = .cninja then c.readmapCninja else c.readmapEdrandy) ∧
  (∀ (c : Config), c.wellFormed = true →
    (∀ off T, (off, T) ∈ c.tableInUse → c.tableInUse.target off = some T) ∧
    ∀ off, (∀ T, (off, T) ∉ c.tableInUse) → c.tableInUse.target off = none) ∧
  ∀ (s t : State) (off : BitVec 17), s.cfg.wellFormed = true → s.suspend = false →
    exec (.prd off) s = .next t → t.suspend = true →
    s.cfg.bootleg = false ∧ s.cfg.readTable = .edrandy ∧ off.toNat = s.cfg.yieldOffset

/-! ## The bootleg patch -/

/-- PATCH is idempotent (R121): run on an image it has already patched, it changes nothing and emits nothing; and a bootleg
configuration whose no-op word is one of the patterns is refused. That the refusal R121 asks for is made where PATCH executes,
on a bootleg configuration only, is the model's choice (log entry 18). -/
def Obligations.PatchIsIdempotent : Prop :=
  (∀ (s t : State), exec .patch s = .next t → exec .patch t = .next t) ∧
  (∀ (s : State), s.cfg.bootleg = true →
    s.cfg.patch.nop ∈ s.cfg.patch.ops ∨ s.cfg.patch.nop ∈ s.cfg.patch.cmps → exec .patch s = .refused .badPatchConfig)

/-- PATCH outside the bootleg variant has no effect; in it, it completes exactly in the configurations that meet R121's
condition and refuses the others (R120, R121). That the refusal is made where PATCH executes, and not outside the bootleg
variant, is the model's choice (log entry 18). -/
def Obligations.PatchCompletesOrRefuses : Prop :=
  ∀ (s : State),
    (s.cfg.bootleg = false → exec .patch s = .next s) ∧
    (s.cfg.bootleg = true → s.cfg.patch.idempotent = true → ∃ t, exec .patch s = .next t ∧ Frame [.img, .hist] s t) ∧
    (s.cfg.bootleg = true → s.cfg.patch.idempotent = false → exec .patch s = .refused .badPatchConfig)

/-- After PATCH no match is left in the region; every word is as before or the no-op word; words outside the region are as
before; the image keeps its length (R120, R122). A word that changed is one of the five words of a match that was in the image
before, so an image without a match is left as it was and nothing is emitted. Which five words is the spec's reading (D43, log
entry 18). -/
def Obligations.PatchLeavesNoMatch : Prop :=
  ∀ (s t : State), s.cfg.bootleg = true → exec .patch s = .next t →
    (∀ i, ¬ PatchMatch s.cfg.patch t.img i) ∧
    (∀ j, t.img[j]? = s.img[j]? ∨ (t.img[j]? = some s.cfg.patch.nop ∧ j < s.img.length)) ∧
    (∀ j, j < s.cfg.patch.lo ∨ s.cfg.patch.hi < j → t.img[j]? = s.img[j]?) ∧
    t.img.length = s.img.length ∧
    (∀ j, t.img[j]? ≠ s.img[j]? → ∃ i, PatchMatch s.cfg.patch s.img i ∧ i - 4 ≤ j ∧ j ≤ i) ∧
    ((∀ i, ¬ PatchMatch s.cfg.patch s.img i) → t = s)

/-- The first match of the region is patched (R120): its five words, the compare word through the opcode word, become the
no-op word, and `Patched` of the compare word's index is the first event. In all, the matches taken are, in ascending order, the
matches of the image before that stand more than 4 words after every one taken before them; the events are `Patched` of their
compare words, one for each in that order; and exactly their five words are new. Which five words is the spec's reading (D43, log
entry 18). -/
def Obligations.PatchBlanksTheFirstMatch : Prop :=
  ∀ (s t : State), s.cfg.bootleg = true → exec .patch s = .next t →
    (∀ i, PatchMatch s.cfg.patch s.img i → (∀ j, j < i → ¬ PatchMatch s.cfg.patch s.img j) →
      (∀ j, i - 4 ≤ j → j ≤ i → t.img[j]? = some s.cfg.patch.nop) ∧
      ∃ more, t.hist = s.hist ++ .patched (i - 4) :: more) ∧
    ∃ taken : List Nat, taken.Pairwise (· < ·) ∧
      (∀ i, i ∈ taken ↔ PatchMatch s.cfg.patch s.img i ∧ ∀ k ∈ taken, k < i → k + 4 < i) ∧
      t.hist = s.hist ++ taken.map (fun i => .patched (i - 4)) ∧
      ∀ j, ((∃ i ∈ taken, i - 4 ≤ j ∧ j ≤ i) → t.img[j]? = some s.cfg.patch.nop) ∧
        ((∀ i ∈ taken, ¬ (i - 4 ≤ j ∧ j ≤ i)) → t.img[j]? = s.img[j]?)

/-! ## The compositor's bus -/

/-- TDW (R141): the addressed tile word is combined and its cell is marked dirty; no event, nothing else changes. -/
def Obligations.TdwStoresAndMarksDirty : Prop :=
  ∀ (s : State) (L : Layer) (off : BitVec 17) (data mask : Word), isLaneMask mask = true →
    ∃ t, exec (.tdw L off data mask) s = .next t ∧
      (∀ w, t.wordAt (.td L) w =
        if w = off.toNat / 2 then combine (s.wordAt (.td L) w) data mask else s.wordAt (.td L) w) ∧
      (∀ w, w < 2048 → t.isDirty L w = (s.isDirty L w || w == off.toNat / 2)) ∧
      Frame [.mem (.td L), .dirty L] s t

/-- RSW and SRW (R143, R152): the addressed word of the layer's rowscroll buffer, or of the live sprite copy, is combined; no
event, nothing else changes. -/
def Obligations.RswAndSrwStore : Prop :=
  ∀ (s : State) (L : Layer) (off : BitVec 17) (data mask : Word), isLaneMask mask = true →
    (∃ t, exec (.rsw L off data mask) s = .next t ∧
      (∀ w, t.wordAt (.rs L) w =
        if w = off.toNat / 2 then combine (s.wordAt (.rs L) w) data mask else s.wordAt (.rs L) w) ∧
      Frame [.mem (.rs L)] s t) ∧
    (∃ t, exec (.srw off data mask) s = .next t ∧
      (∀ w, t.wordAt .sprLive w =
        if w = off.toNat / 2 then combine (s.wordAt .sprLive w) data mask else s.wordAt .sprLive w) ∧
      Frame [.mem .sprLive] s t)

/-- TDR, RSR, PLR and SRR (R142, R144, R151, R153): each returns the stored word and changes nothing but the value
returned. -/
def Obligations.RamReadsReturnStoredWord : Prop :=
  ∀ (s : State) (L : Layer) (off : BitVec 17),
    (∃ t, exec (.tdr L off) s = .next t ∧ t.readData = s.wordAt (.td L) (off.toNat / 2) ∧ Frame [.readData] s t) ∧
    (∃ t, exec (.rsr L off) s = .next t ∧ t.readData = s.wordAt (.rs L) (off.toNat / 2) ∧ Frame [.readData] s t) ∧
    (∃ t, exec (.plr off) s = .next t ∧ t.readData = s.wordAt .pal (off.toNat / 2) ∧ Frame [.readData] s t) ∧
    (∃ t, exec (.srr off) s = .next t ∧ t.readData = s.wordAt .sprLive (off.toNat / 2) ∧ Frame [.readData] s t)

/-- Every bit of a word is stored (R30, R140): a whole word written to tile data, rowscroll, palette or sprite RAM is what the
matching read (R142, R144, R151, R153) returns as the next request, and a control word written whole outside the bootleg variant
is stored whole. That these four windows can be read is the spec's decision D9 (log entry 22). Writes of one lane, control words
of the bootleg board, and that a word is kept until it is written again are in other statements. -/
def Obligations.RamReadsBackLastWrite : Prop :=
  ∀ (s : State) (L : Layer) (b : Block) (off : BitVec 17) (data : Word),
    (∃ t u, exec (.tdw L off data 0xFFFF#16) s = .next t ∧ exec (.tdr L off) t = .next u ∧ u.readData = data) ∧
    (∃ t u, exec (.rsw L off data 0xFFFF#16) s = .next t ∧ exec (.rsr L off) t = .next u ∧ u.readData = data) ∧
    (∃ t u, exec (.plw off data 0xFFFF#16) s = .next t ∧ exec (.plr off) t = .next u ∧ u.readData = data) ∧
    (∃ t u, exec (.srw off data 0xFFFF#16) s = .next t ∧ exec (.srr off) t = .next u ∧ u.readData = data) ∧
    (s.cfg.bootleg = false → ∃ t, exec (.ctw b off data 0xFFFF#16) s = .next t ∧ t.wordAt (.ctrl b) (off.toNat / 2) = data)

/-- CTW (R145): the addressed control word is combined with the data, corrected first in the bootleg variant; no event, nothing
else changes. -/
def Obligations.CtwCombinesControlWord : Prop :=
  ∀ (s : State) (b : Block) (off : BitVec 17) (data mask : Word), isLaneMask mask = true →
    ∃ t, exec (.ctw b off data mask) s = .next t ∧
      (∀ w, t.wordAt (.ctrl b) w =
        if w = off.toNat / 2 then
          combine (s.wordAt (.ctrl b) w) (if s.cfg.bootleg then correct b off data else data) mask
        else s.wordAt (.ctrl b) w) ∧
      Frame [.mem (.ctrl b)] s t

/-- The bootleg correction (R146): in bootleg mode, V written to control_0 offset 6 stores V + 0xA, to control_1 offset 2
stores V - 2, to control_1 offset 6 stores V + 0xA, all mod 2^16, and any other offset stores V; otherwise V is stored
unchanged. The wrap is the spec's decision D39 (log entry 24). -/
def Obligations.BootlegCorrectionStoresTable : Prop :=
  ∀ (s t : State) (b : Block) (off : BitVec 17) (v : Word), exec (.ctw b off v 0xFFFF#16) s = .next t →
    (t.wordAt (.ctrl b) (off.toNat / 2)).toNat =
      if s.cfg.bootleg = true ∧ b = .c0 ∧ off.toNat = 0x06 then (v.toNat + 0xA) % 65536
      else if s.cfg.bootleg = true ∧ b = .c1 ∧ off.toNat = 0x02 then (v.toNat + 0xFFFE) % 65536
      else if s.cfg.bootleg = true ∧ b = .c1 ∧ off.toNat = 0x06 then (v.toNat + 0xA) % 65536
      else v.toNat

/-- The correction under a one-lane mask (R147): it is made on the full data before the combine, only the selected lane of the
corrected value is stored, and the other lane keeps its old value; with `BOOTLEG` false the data is stored unchanged. That the
correction comes before the mask is the spec's decision D39 (log entry 24). -/
def Obligations.BootlegCorrectionBeforeMask : Prop :=
  ∀ (s : State) (b : Block) (off : BitVec 17) (v : Word),
    (∃ t, exec (.ctw b off v 0x00FF#16) s = .next t ∧
      loLane (t.wordAt (.ctrl b) (off.toNat / 2)) = loLane (if s.cfg.bootleg then correct b off v else v) ∧
      hiLane (t.wordAt (.ctrl b) (off.toNat / 2)) = hiLane (s.wordAt (.ctrl b) (off.toNat / 2))) ∧
    (∃ t, exec (.ctw b off v 0xFF00#16) s = .next t ∧
      hiLane (t.wordAt (.ctrl b) (off.toNat / 2)) = hiLane (if s.cfg.bootleg then correct b off v else v) ∧
      loLane (t.wordAt (.ctrl b) (off.toNat / 2)) = loLane (s.wordAt (.ctrl b) (off.toNat / 2)))

/-- PLW (R150, R148): the addressed palette word is combined, and one `SetColor` of its entry is emitted with the colour of the
two words after the store; nothing else changes. Which word of the pair holds green and red and which blue is D24, from general
knowledge (K8), and so is one event for each write (log entry 21). -/
def Obligations.PlwStoresAndSetsColour : Prop :=
  ∀ (s : State) (off : BitVec 17) (data mask : Word), isLaneMask mask = true →
    ∃ t, exec (.plw off data mask) s = .next t ∧
      (∀ w, t.wordAt .pal w =
        if w = off.toNat / 2 then combine (s.wordAt .pal w) data mask else s.wordAt .pal w) ∧
      t.hist = s.hist ++ [.setColor (off.toNat / 2 / 2)
        (loLane (t.wordAt .pal (2 * (off.toNat / 2 / 2))))
        (hiLane (t.wordAt .pal (2 * (off.toNat / 2 / 2))))
        (loLane (t.wordAt .pal (2 * (off.toNat / 2 / 2) + 1)))] ∧
      Frame [.mem .pal, .hist] s t

/-- DMA (R154): all of `SPR_LIVE` is in `SPR_BUF` after one step, whatever the data; the live copy and everything else is
unchanged, and no event is emitted. -/
def Obligations.DmaSnapshotsSprites : Prop :=
  ∀ (s : State) (data mask : Word), isLaneMask mask = true →
    ∃ t, exec (.dma data mask) s = .next t ∧ (∀ w, t.wordAt .sprBuf w = s.wordAt .sprLive w) ∧
      Frame [.mem .sprBuf] s t ∧ ∀ data' mask', isLaneMask mask' = true → exec (.dma data' mask') s = .next t

/-- SLW (R155, R156): with the low lane selected, `SoundLatch` of the low byte and then `SoundIrq` of the line, NMI on the
bootleg and IRQ1 otherwise; with the high lane only, nothing. The low lane and the line are the spec's decisions D35 and D38
(log entry 21). -/
def Obligations.SlwEmitsLatchThenInterrupt : Prop :=
  ∀ (s : State) (data mask : Word), isLaneMask mask = true →
    ∃ t, exec (.slw data mask) s = .next t ∧ Frame [.hist] s t ∧
      t.hist = s.hist ++ (if mask = 0xFF00#16 then []
        else [.soundLatch (loLane data), .soundIrq (if s.cfg.bootleg then .nmi else .irq1)])

/-- A sprite write shows only after a DMA (R239, R300): SRW changes no pass of the frame and no used colour; after the DMA that
follows, the compositor's copy is the live copy. -/
def Obligations.SpriteWriteWaitsForDma : Prop :=
  ∀ (s t : State) (off : BitVec 17) (data mask : Word), exec (.srw off data mask) s = .next t →
    t.renderPlan = s.renderPlan ∧ t.usedColours = s.usedColours ∧
    ∃ u, exec (.dma 0#16 0xFFFF#16) t = .next u ∧ ∀ w, u.wordAt .sprBuf w = t.wordAt .sprLive w

/-- A host byte write reaches its lane (R64, R66; the big-endian lane order is log entry 10): where a host address decodes into
the write window, the request decodes and completes, and of the loopback file exactly one byte changes, to the value: of the
word at the decoded offset the high lane for an even address and the low lane for an odd one. In a configuration that meets the
constraints (log entry 30) that byte is the one at the decoded offset. -/
def Obligations.HostByteWriteReachesItsByte : Prop :=
  ∀ (s : State) (a off : Nat) (v : Byte), addrDecode s.cfg .write a = some (.protW, off) → off < 0x200 →
    (∃ r i t, hostWriteByte s.cfg a v = some r ∧ decode s.cfg r = .instr i ∧ exec i s = .next t ∧
      ∀ k, (t.mem .lb).readByte k = if k = off - off % 2 + a % 2 then v else (s.mem .lb).readByte k) ∧
    (s.cfg.wellFormed = true → off - off % 2 + a % 2 = off)

/-! ## Events -/

/-- IRQ (R264): SUSPEND is false after it, and nothing else changes; where SUSPEND was false already, nothing does. -/
def Obligations.IrqEndsTheHold : Prop :=
  ∀ (s : State), ∃ t, exec .irq s = .next t ∧ t.suspend = false ∧ Frame [.suspend] s t ∧ (s.suspend = false → t = s)

/-- RESET (R290): the loopback file is zero; under `RESET_POLICY = ZERO` so is every other word; FRAME is FRAME0, SUSPEND is
false, every cell is dirty, no colour is used; the configuration, the history and the program image stay. The values besides
the loopback file's are the spec's decisions (D37, D40, D41, D45, log entry 11); that the requests presented and the value last
returned stay is the model's own (log entries 6 and 12). -/
def Obligations.ResetLeavesResetState : Prop :=
  ∀ (s : State), ∃ t, exec .reset s = .next t ∧
    (∀ w, t.wordAt .lb w = 0#16) ∧ (s.cfg.resetPolicy = .zero → t.AllWordsZero) ∧
    t.frame = s.cfg.frame0 ∧ t.suspend = false ∧ (∀ L w, w < 2048 → t.isDirty L w = true) ∧
    t.usedSprColours = [] ∧ t.cfg = s.cfg ∧ t.hist = s.hist ∧ t.img = s.img ∧ t.reqs = s.reqs ∧
    t.readData = s.readData

/-! ## The frame -/

/-- RENDER (R180, R190, R193, R198, R199): the seven passes in their fixed order, each layer pass with the layer's tile size, its
resolved scroll, its graphics region and its palette base; `Plan` and then `Bitmap` of the counter before the increment, FRAME
one more; no register, buffer or table changes. -/
def Obligations.RenderEmitsPlanThenBitmap : Prop :=
  ∀ (s : State), ∃ t passes, exec .render s = .next t ∧
    passes = [.layer ⟨.pf2, 16, s.resolveScroll .pf2, s.region .pf2, s.cfg.palBase.pf2, .opaquePens⟩,
      .layer ⟨.pf3, 16, s.resolveScroll .pf3, s.region .pf3, s.cfg.palBase.pf3, .transparent⟩,
      .layer ⟨.pf4, 16, s.resolveScroll .pf4, s.region .pf4, s.cfg.palBase.pf4, .back⟩,
      .sprites false (s.drawSprites false),
      .layer ⟨.pf4, 16, s.resolveScroll .pf4, s.region .pf4, s.cfg.palBase.pf4, .front⟩,
      .sprites true (s.drawSprites true),
      .layer ⟨.pf1, 8, s.resolveScroll .pf1, s.region .pf1, s.cfg.palBase.pf1, .transparent⟩] ∧
    t.hist = s.hist ++ [.plan ⟨s.frame, s.flip, passes⟩,
      .bitmap s.frame (s.bitmap Config.gfxPen passes s.flip)] ∧
    t.frame = s.frame + 1 ∧ t.usedSprColours = s.usedColours ∧ Frame [.usedSprColours, .hist, .frame] s t

/-- The flip flag is the top bit of control_1's word 0 (R27). In the default control layout (D11 to D16, log entry 13): the
banks (R29, R182), pf2 taking `TILES_B` exactly where the high byte of control_0's word 7 is not 0 and pf3 where the low byte is
not 0; the slots (R25), pf3 and pf2 being slots A and B of control_0, pf1 and pf4 slots A and B of control_1; and the mode, style
and scroll fields of the two slots (R28). pf1's and pf4's regions do not depend on any register. -/
def Obligations.FlipAndBankFields : Prop :=
  ∀ (s : State),
    s.flip = (s.wordAt (.ctrl .c1) 0).getLsbD 15 ∧
    (s.cfg.control = {} →
      s.region .pf2 = (if hiLane (s.wordAt (.ctrl .c0) 7) = 0#8 then .tilesA else .tilesB) ∧
      s.region .pf3 = (if loLane (s.wordAt (.ctrl .c0) 7) = 0#8 then .tilesA else .tilesB)) ∧
    s.region .pf1 = .chars ∧ s.region .pf4 = s.cfg.pf4Region ∧
    (s.cfg.control = {} →
      s.slotOf .pf3 = ⟨.c0, .a⟩ ∧ s.slotOf .pf2 = ⟨.c0, .b⟩ ∧ s.slotOf .pf1 = ⟨.c1, .a⟩ ∧ s.slotOf .pf4 = ⟨.c1, .b⟩ ∧
      ∀ (L : Layer) (b : Block),
        (s.slotOf L = ⟨b, .a⟩ →
          s.rowscrollOn L = (s.wordAt (.ctrl b) 6).getLsbD 6 ∧ s.colscrollOn L = (s.wordAt (.ctrl b) 6).getLsbD 5 ∧
          (s.style L).toNat = (s.wordAt (.ctrl b) 5).toNat % 8 ∧
          s.scrollX L = s.wordAt (.ctrl b) 1 ∧ s.scrollY L = s.wordAt (.ctrl b) 2) ∧
        (s.slotOf L = ⟨b, .b⟩ →
          s.rowscrollOn L = (s.wordAt (.ctrl b) 6).getLsbD 14 ∧ s.colscrollOn L = (s.wordAt (.ctrl b) 6).getLsbD 13 ∧
          (s.style L).toNat = (s.wordAt (.ctrl b) 5).toNat / 256 % 8 ∧
          s.scrollX L = s.wordAt (.ctrl b) 3 ∧ s.scrollY L = s.wordAt (.ctrl b) 4))

/-- The row-count tables (R183): 512 >> s for a 16x16 layer and 256 >> s for pf1 over the styles 0 to 7, and 1 for any other
style; a layer in rowscroll mode has that many rows. -/
def Obligations.RowCountTables : Prop :=
  (∀ style, style < 8 → rows16 style = 512 >>> style ∧ rows8 style = 256 >>> style) ∧
  (∀ style, 8 ≤ style → rows16 style = 1 ∧ rows8 style = 1) ∧
  (∀ (s : State) (L : Layer), s.rowscrollOn L = true →
    (s.resolveScroll L).rows = (if L = .pf1 then 256 else 512) >>> (s.style L).toNat ∧
    (s.resolveScroll L).xs.length = (s.resolveScroll L).rows)

/-- Rowscroll mode (R185): one column with the base Y; row i has the base X plus word i of the layer's rowscroll buffer, mod
2^16. The word index and the wrap are the spec's decisions D19 and D50 (log entry 15). -/
def Obligations.RowscrollAddsRowDeltas : Prop :=
  ∀ (s : State) (L : Layer), s.rowscrollOn L = true →
    (s.resolveScroll L).cols = 1 ∧ (s.resolveScroll L).ys = [s.scrollY L] ∧
    ∀ i, i < (s.resolveScroll L).rows → ∃ x, (s.resolveScroll L).xs[i]? = some x ∧
      x.toNat = ((s.scrollX L).toNat + (s.wordAt (.rs L) i).toNat) % 65536

/-- Colscroll mode (R186): pf3 and pf4 only; one row with the base X and 64 columns, those from the layer's split on with the
base Y plus word 0x400 + c of its rowscroll buffer, those below it with the base Y. For pf1 and pf2 the bit has no effect. The word index, the columns below the split and the wrap
are the spec's decisions D18, D19 and D50 (log entry 15). -/
def Obligations.ColscrollAddsColumnDeltas : Prop :=
  ∀ (s : State) (L : Layer), s.rowscrollOn L = false → s.colscrollOn L = true →
    (∀ split, s.cfg.colsplit L = some split →
      (s.resolveScroll L).rows = 1 ∧ (s.resolveScroll L).cols = 64 ∧ (s.resolveScroll L).xs = [s.scrollX L] ∧
      (s.resolveScroll L).ys.length = 64 ∧
      ∀ c, c < 64 → (s.resolveScroll L).ys[c]? =
        some (if split ≤ c then s.scrollY L + s.wordAt (.rs L) (0x400 + c) else s.scrollY L)) ∧
    (L = .pf1 ∨ L = .pf2 → s.resolveScroll L = ⟨1, 1, [s.scrollX L], [s.scrollY L]⟩)

/-- Exactly one of the three modes holds (R188), rowscroll first; fixed mode has one row and one column (R187). -/
def Obligations.OneScrollModePerLayer : Prop :=
  ∀ (s : State) (L : Layer),
    (s.rowscrollOn L = true ∧ s.resolveScroll L = s.rowscrollCfg L) ∨
    (s.rowscrollOn L = false ∧ s.colscrollOn L = true ∧
      ((L = .pf3 ∧ s.resolveScroll L = s.colscrollCfg L s.cfg.colsplitPf3) ∨
       (L = .pf4 ∧ s.resolveScroll L = s.colscrollCfg L s.cfg.colsplitPf4))) ∨
    (s.rowscrollOn L = false ∧ (s.colscrollOn L = false ∨ L = .pf1 ∨ L = .pf2) ∧
      s.resolveScroll L = ⟨1, 1, [s.scrollX L], [s.scrollY L]⟩)

/-- A layer's scroll configuration depends only on its control fields and its own rowscroll buffer (R189). So a write to another
layer's rowscroll buffer leaves it, and in the default control layout (log entry 13) a control write that leaves its fields
does: any write to another block, and in its own block a write to a word that holds no field of its slot or, of the style and
mode words 5 and 6, to the byte lane of the other slot. -/
def Obligations.ScrollDependsOnOwnBuffersOnly : Prop :=
  (∀ (s t : State) (L : Layer), t.cfg = s.cfg → t.rowscrollOn L = s.rowscrollOn L → t.colscrollOn L = s.colscrollOn L →
    t.style L = s.style L → t.scrollX L = s.scrollX L → t.scrollY L = s.scrollY L →
    (∀ w, t.wordAt (.rs L) w = s.wordAt (.rs L) w) → t.resolveScroll L = s.resolveScroll L) ∧
  (∀ (s t : State) (L : Layer), t.cfg = s.cfg →
    (∀ w, t.wordAt (.ctrl (s.slotOf L).block) w = s.wordAt (.ctrl (s.slotOf L).block) w) →
    (∀ w, t.wordAt (.rs L) w = s.wordAt (.rs L) w) → t.resolveScroll L = s.resolveScroll L) ∧
  (∀ (s t : State) (L L' : Layer) (off : BitVec 17) (data mask : Word), L ≠ L' →
    exec (.rsw L' off data mask) s = .next t → t.resolveScroll L = s.resolveScroll L) ∧
  (∀ (s t : State) (L : Layer) (b : Block) (off : BitVec 17) (data mask : Word), s.cfg.control = {} →
    exec (.ctw b off data mask) s = .next t →
    (s.slotOf L).block ≠ b ∨
    ((s.slotOf L).slot = .a ∧ (off.toNat / 2 ∉ [1, 2, 5, 6] ∨ (off.toNat / 2 ∈ [5, 6] ∧ mask = 0xFF00#16))) ∨
    ((s.slotOf L).slot = .b ∧ (off.toNat / 2 ∉ [3, 4, 5, 6] ∨ (off.toNat / 2 ∈ [5, 6] ∧ mask = 0x00FF#16))) →
    t.resolveScroll L = s.resolveScroll L)

/-- The pens of each transparency class (R191). pf4 is drawn twice (R192): the back pass draws pens 1 to 7, the front pass pens 8
to 15, and a pixel of pf4 is drawn in at most one of the two. That pen 0 is the transparent pen is D26 (log entry 15). -/
def Obligations.Pf4PassesAreDisjoint : Prop :=
  (∀ pen : Pen, PenClass.opaquePens.draws pen = true ∧ (PenClass.transparent.draws pen = true ↔ pen ≠ 0#4) ∧
    (PenClass.back.draws pen = true ↔ 1 ≤ pen.toNat ∧ pen.toNat ≤ 7) ∧
    (PenClass.front.draws pen = true ↔ 8 ≤ pen.toNat)) ∧
  ∀ (rom : PenRom) (s : State) (p : LayerPass) (sx sy : Nat),
    ((s.layerPixel rom { p with pens := .back } sx sy).isSome = true ↔
      1 ≤ (s.layerPen rom p sx sy).toNat ∧ (s.layerPen rom p sx sy).toNat ≤ 7) ∧
    ((s.layerPixel rom { p with pens := .front } sx sy).isSome = true ↔ 8 ≤ (s.layerPen rom p sx sy).toNat) ∧
    (s.layerPixel rom { p with pens := .back } sx sy = none ∨ s.layerPixel rom { p with pens := .front } sx sy = none)

/-- Every pixel is defined (R202): whatever the graphics ROM, the opaque pf2 pass draws every position. The painter (R202)
starts undefined, and a later pass, or a later cell of a sprite pass (R237), covers what is there where it draws. The flip mirrors
the screen (R200). The bitmap (R198, R200) has the pixel of every position of the visible window that lies on the 256 x 256
screen, in its row and column. In a configuration that meets the constraints every pixel of a frame is a palette index of R198's
range, by the bound of log entry 33. The painter and the screen are the spec's decisions (D31, D32, log entry 15). -/
def Obligations.EveryPixelIsDefined : Prop :=
  ∀ (rom : PenRom) (s : State),
    (∀ sx sy, (s.paint rom s.renderPasses sx sy).isSome = true) ∧
    (∀ sx sy, s.paint rom [] sx sy = none ∧
      (∀ passes p, s.paint rom (passes ++ [p]) sx sy = (s.passPixel rom p sx sy).or (s.paint rom passes sx sy)) ∧
      (∀ lp, s.passPixel rom (.layer lp) sx sy = s.layerPixel rom lp sx sy) ∧
      (∀ g, s.passPixel rom (.sprites g []) sx sy = none) ∧
      (∀ g cells c, s.passPixel rom (.sprites g (cells ++ [c])) sx sy =
        (c.pixel rom s.cfg.palBaseSpr sx sy).or (s.passPixel rom (.sprites g cells) sx sy))) ∧
    (∀ passes sx sy, s.pixel rom passes false sx sy = s.paint rom passes sx sy ∧
      s.pixel rom passes true sx sy = s.paint rom passes (255 - sx) (255 - sy)) ∧
    (∀ passes f, (s.bitmap rom passes f).length = min s.cfg.vis.y1 255 + 1 - s.cfg.vis.y0 ∧
      (∀ row ∈ s.bitmap rom passes f, row.length = min s.cfg.vis.x1 255 + 1 - s.cfg.vis.x0) ∧
      ∀ i j, s.cfg.vis.y0 + i ≤ min s.cfg.vis.y1 255 → s.cfg.vis.x0 + j ≤ min s.cfg.vis.x1 255 →
        ∃ row, (s.bitmap rom passes f)[i]? = some row ∧
          row[j]? = some (s.pixel rom passes f (s.cfg.vis.x0 + j) (s.cfg.vis.y0 + i))) ∧
    ∀ row ∈ s.bitmap rom s.renderPasses s.flip, ∀ px ∈ row,
      px.isSome = true ∧ (s.cfg.wellFormed = true → ∃ v, px = some v ∧ v < s.cfg.paletteEntries)

/-- Flip-screen symmetry (R203): changing only the flip flag, by a write to control_1's word 0 in the default control layout
(log entry 13), mirrors the 256 x 256 screen (log entry 15) on both axes; the frame number and everything else of the plan
stays. -/
def Obligations.FlipMirrorsTheScreen : Prop :=
  ∀ (rom : PenRom) (s t : State) (data mask : Word), s.cfg.control = {} →
    exec (.ctw .c1 0x00#17 data mask) s = .next t → t.flip ≠ s.flip →
    t.renderPasses = s.renderPasses ∧ t.frame = s.frame ∧
    ∀ sx sy, sx ≤ 255 → sy ≤ 255 →
      t.pixel rom t.renderPasses t.flip sx sy = s.pixel rom s.renderPasses s.flip (255 - sx) (255 - sy)

/-! ## Sprites -/

/-- The fields (R230) and derived values (R231) of an entry in the default sprite layout (D27, log entry 14): flash, X-flip,
Y-flip, priority and colour from their bits; the masked tile, the signed 9-bit coordinates translated from 240 into -15 to 496,
and a height of 1, 2, 4 or 8. -/
def Obligations.SpriteDerivedValues : Prop :=
  ∀ (s : State) (e : Nat), s.cfg.sprite = {} →
    s.spriteFlash e = (s.wordAt .sprBuf (4 * e)).getLsbD 12 ∧
    s.spriteFlipX e = (s.wordAt .sprBuf (4 * e)).getLsbD 13 ∧
    s.spriteFlipY e = (s.wordAt .sprBuf (4 * e)).getLsbD 14 ∧
    s.spritePriority e = (s.wordAt .sprBuf (4 * e + 2)).getLsbD 15 ∧
    (s.spriteColour e).toNat = (s.wordAt .sprBuf (4 * e + 2)).toNat / 512 % 32 ∧
    s.spriteTile e = s.wordAt .sprBuf (4 * e + 1) &&& s.cfg.spriteMask ∧
    (∃ v : Int, s.spriteX e = 240 - v ∧ -256 ≤ v ∧ v ≤ 255 ∧
      v % 512 = ((s.wordAt .sprBuf (4 * e + 2)).toNat % 512 : Nat)) ∧
    (∃ v : Int, s.spriteY e = 240 - v ∧ -256 ≤ v ∧ v ≤ 255 ∧
      v % 512 = ((s.wordAt .sprBuf (4 * e)).toNat % 512 : Nat)) ∧
    s.spriteHeight e = 2 ^ ((s.wordAt .sprBuf (4 * e)).toNat / 512 % 4) ∧
    -15 ≤ s.spriteX e ∧ s.spriteX e ≤ 496 ∧ -15 ≤ s.spriteY e ∧ s.spriteY e ≤ 496

/-- `DrawSprites(g)` (R232 to R236): a cell is listed exactly where it is cell k of a present entry of the group, not strobed
in this frame and not beyond X 256. The list is in ascending entry index, each entry listed once with its cells in ascending k:
the cells of the first n + 1 entries are those of the first n and then those of entry n. The order is D30 (log entry 14). -/
def Obligations.DrawSpritesListsVisibleCells : Prop :=
  ∀ (s : State) (g : Bool),
    (∀ c : Cell, c ∈ s.drawSprites g ↔
      ∃ e k, e < s.cfg.spriteEntries ∧ k < s.spriteHeight e ∧ c = s.spriteCell e k ∧
        s.spriteTile e ≠ 0#16 ∧ s.spritePriority e = g ∧ ¬ (s.spriteFlash e = true ∧ s.frame % 2 = 1) ∧
        s.spriteX e ≤ 256) ∧
    ∃ upTo : Nat → List Cell, upTo 0 = [] ∧ upTo s.cfg.spriteEntries = s.drawSprites g ∧
      ∀ e, upTo (e + 1) = upTo e ++
        if s.spriteTile e ≠ 0#16 ∧ s.spritePriority e = g ∧ ¬ (s.spriteFlash e = true ∧ s.frame % 2 = 1) ∧
          s.spriteX e ≤ 256
        then (List.range (s.spriteHeight e)).map (s.spriteCell e) else []

/-- An entry drawn has one cell for each step of its height factor (R236): the same X, flips and colour, Y down by 16 a cell.
Unaligned, the tile goes up by 1 a cell with Y-flip and down by 1 without, mod 2^16; with `SPR_TILE_ALIGN` the tiles are those of
the entry's aligned block, upward with Y-flip and downward from its last without. The tile step and the two bases are D29 (log
entry 14). -/
def Obligations.TallSpritesStackCells : Prop :=
  ∀ (s : State) (g : Bool) (e : Nat), s.spriteSkipped g e = false →
    (s.entryCells g e).length = s.spriteHeight e ∧
    ∀ k, k < s.spriteHeight e → ∃ c, (s.entryCells g e)[k]? = some c ∧
      c.x = s.spriteX e ∧ c.y = s.spriteY e - 16 * k ∧ c.colour = s.spriteColour e ∧
      c.flipX = s.spriteFlipX e ∧ c.flipY = s.spriteFlipY e ∧
      (s.cfg.sprTileAlign = false →
        (c.tile.toNat : Int) = ((s.spriteTile e).toNat + (if s.spriteFlipY e then (k : Int) else -k)) % 65536) ∧
      (s.cfg.sprTileAlign = true →
        c.tile.toNat = (s.spriteTile e).toNat - (s.spriteTile e).toNat % s.spriteHeight e +
          if s.spriteFlipY e then k else s.spriteHeight e - 1 - k)

/-- The X reject in raw terms (R235): in the default layout (D27, log entry 14) an entry is rejected exactly for a raw X of 0x100 to 0x1EF; 0x1F0
(xt = 256) is kept and 0x1EF (xt = 257) is rejected. -/
def Obligations.XRejectRawRange : Prop :=
  ∀ (s : State) (e : Nat), s.cfg.sprite = {} →
    (s.spriteOffX e = true ↔
      0x100 ≤ (s.wordAt .sprBuf (4 * e + 2)).toNat % 512 ∧ (s.wordAt .sprBuf (4 * e + 2)).toNat % 512 ≤ 0x1EF)

/-- The zero-tile rule (R232): an entry whose masked tile number is 0 contributes nothing regardless of its other fields: two
states that differ only in the sprite words of such an entry draw the same cells and use the same colours. The words of an
entry are those of the default layout (D27, log entry 14), and the test follows the mask (D28). -/
def Obligations.ZeroTileEntryIsInvisible : Prop :=
  ∀ (s t : State) (e : Nat), s.cfg.sprite = {} → t.cfg = s.cfg → t.frame = s.frame →
    (∀ w, w / 4 ≠ e → t.wordAt .sprBuf w = s.wordAt .sprBuf w) →
    s.spriteTile e = 0#16 → t.spriteTile e = 0#16 →
    (∀ g, t.drawSprites g = s.drawSprites g) ∧ t.usedColours = s.usedColours

/-- The palette usage (R196): the colours of the entries with a non-zero tile and xt at most 256, whatever their priority or
flash bit. Which entries count is the spec's decision D33 (log entry 15). -/
def Obligations.UsedColoursAreVisibleEntries : Prop :=
  ∀ (s : State) (col : BitVec 5), col ∈ s.usedColours ↔
    ∃ e, e < s.cfg.spriteEntries ∧ s.spriteTile e ≠ 0#16 ∧ s.spriteX e ≤ 256 ∧ s.spriteColour e = col

/-- The draw call under flip (R238): with FLIP clear it is the cell; with FLIP set it draws exactly the mirror of the cell's
pixels, and the call of cell k is at Y 240 - yt + 16 k. The mirror is that of the 256 x 256 screen of D31 (log entry 15). -/
def Obligations.FlippedDrawCallIsMirror : Prop :=
  ∀ (rom : PenRom) (base : Nat) (c : Cell) (sx sy : Nat), sx ≤ 255 → sy ≤ 255 →
    drawCall false c = c ∧
    (drawCall true c).pixel rom base (255 - sx) (255 - sy) = c.pixel rom base sx sy ∧
    ∀ (s : State) (e k : Nat), (drawCall true (s.spriteCell e k)).y = 240 - s.spriteY e + 16 * k

/-! ## Pixels -/

/-- The value of a pixel, whatever the graphics ROM. A layer pass (R201): rowscroll rows and colscroll columns are in map space,
the tile word is that of the map cell, the pen that of the tile's pixel, the palette index the layer's base plus 16 times the
colour plus the pen, and it is drawn where the pass's class draws the pen. The default scan is two pages of 32 x 32 cells (R33,
D22). A cell (R237): the flipped pixel of its tile at the positions it covers on the screen, pen 0 drawing nothing, and nothing
anywhere else. The pixel semantics are the spec's decisions (D22, D25, D26, D32, log entry 15). -/
def Obligations.PixelValues : Prop :=
  ∀ (rom : PenRom) (s : State),
    (∀ (p : LayerPass) (sx sy mx my : Nat),
      (p.cfg.cols = 1 ∧ (∃ y, p.cfg.ys[0]? = some y ∧ my = (sy + y.toNat) % (32 * p.tileSize)) ∧
        (∃ x, p.cfg.xs[my * p.cfg.rows / (32 * p.tileSize)]? = some x ∧ mx = (sx + x.toNat) % (64 * p.tileSize))) ∨
      (p.cfg.cols ≠ 1 ∧ (∃ x, p.cfg.xs[0]? = some x ∧ mx = (sx + x.toNat) % (64 * p.tileSize)) ∧
        (∃ y, p.cfg.ys[mx / p.tileSize]? = some y ∧ my = (sy + y.toNat) % (32 * p.tileSize))) →
      ∀ (word : Word) (pen : Pen),
        word = s.wordAt (.td p.layer) (s.cfg.tileScan.index (mx / p.tileSize) (my / p.tileSize)) →
        pen = rom p.region (word &&& s.cfg.tileMask) (mx % p.tileSize) (my % p.tileSize) →
        s.layerPixel rom p sx sy =
          if p.pens.draws pen then some (p.palBase + 16 * (word.toNat / 2 ^ s.cfg.colourShift) + pen.toNat) else none) ∧
    (∀ col row, col < 64 → row < 32 → TileScan.twoPages.index col row = col % 32 + 32 * row + 1024 * (col / 32)) ∧
    (∀ (c : Cell) (base sx sy i j : Nat), sx ≤ 255 → sy ≤ 255 → i < 16 → j < 16 → c.x + i = sx → c.y + j = sy →
      ∀ pen : Pen, pen = rom .sprites c.tile (if c.flipX then 15 - i else i) (if c.flipY then 15 - j else j) →
        c.pixel rom base sx sy = if pen = 0#4 then none else some (base + 16 * c.colour.toNat + pen.toNat)) ∧
    (∀ (c : Cell) (base sx sy : Nat),
      255 < sx ∨ 255 < sy ∨ (∀ i j : Nat, i < 16 → j < 16 → ¬ (c.x + i = sx ∧ c.y + j = sy)) →
        c.pixel rom base sx sy = none)
end

