-- ==== Sys2Proof/Laws/Bits.lean ====
section
/-! SUPPORT. Laws of the byte lanes and of the combine primitive. -/

namespace Sys2Proof.Machine

theorem hiLane_getLsbD (v : Word) (i : Nat) (h : i < 8) : (hiLane v).getLsbD i = v.getLsbD (8 + i) := by
  simp [hiLane, h]

theorem loLane_getLsbD (v : Word) (i : Nat) (h : i < 8) : (loLane v).getLsbD i = v.getLsbD i := by
  simp [loLane, h]

theorem ofLanes_getLsbD (hi lo : Byte) (i : Nat) :
    (ofLanes hi lo).getLsbD i = if i < 8 then lo.getLsbD i else hi.getLsbD (i - 8) :=
  BitVec.getLsbD_append (x := hi) (y := lo) (i := i)

@[simp] theorem hiLane_ofLanes (hi lo : Byte) : hiLane (ofLanes hi lo) = hi := by
  apply BitVec.eq_of_getLsbD_eq
  intro i h
  have h8 : ¬ 8 + i < 8 := by omega
  rw [hiLane_getLsbD _ _ h, ofLanes_getLsbD, if_neg h8, Nat.add_sub_cancel_left]

@[simp] theorem loLane_ofLanes (hi lo : Byte) : loLane (ofLanes hi lo) = lo := by
  apply BitVec.eq_of_getLsbD_eq
  intro i h
  rw [loLane_getLsbD _ _ h, ofLanes_getLsbD, if_pos h]

@[simp] theorem ofLanes_lanes (v : Word) : ofLanes (hiLane v) (loLane v) = v := by
  apply BitVec.eq_of_getLsbD_eq
  intro i h
  rw [ofLanes_getLsbD]
  split
  · rename_i h8
    exact loLane_getLsbD v i h8
  · rw [hiLane_getLsbD _ _ (by omega)]
    congr 1
    omega

/-- A word is its two lanes. -/
theorem word_eq_of_lanes {v w : Word} (hh : hiLane v = hiLane w) (hl : loLane v = loLane w) : v = w := by
  rw [← ofLanes_lanes v, ← ofLanes_lanes w, hh, hl]

/-- The combine of R10, bit by bit. -/
theorem combine_getLsbD (old data mask : Word) (i : Nat) :
    (combine old data mask).getLsbD i = if mask.getLsbD i then data.getLsbD i else old.getLsbD i := by
  simp only [combine, BitVec.getLsbD_or, BitVec.getLsbD_and, BitVec.getLsbD_not]
  by_cases hi : i < 16
  · cases mask.getLsbD i <;> simp [hi]
  · simp only [BitVec.getLsbD_of_ge _ _ (Nat.le_of_not_lt hi)]
    rfl

theorem combine_word (old data : Word) : combine old data 0xFFFF#16 = data := by
  apply BitVec.eq_of_getLsbD_eq
  intro i hi
  have h : (0xFFFF#16 : Word).getLsbD i = true := by
    revert hi; revert i; decide
  rw [combine_getLsbD, if_pos h]

theorem combine_idem (old data mask : Word) : combine (combine old data mask) data mask = combine old data mask := by
  apply BitVec.eq_of_getLsbD_eq
  intro i _
  simp only [combine_getLsbD]
  split <;> rfl

/-- A lane mask is one of three values (R65). -/
theorem isLaneMask_iff (m : Word) : isLaneMask m = true ↔ m = 0x00FF#16 ∨ m = 0xFF00#16 ∨ m = 0xFFFF#16 := by
  simp [isLaneMask, or_assoc]

theorem hiLane_combine_low (old data : Word) : hiLane (combine old data 0x00FF#16) = hiLane old := by
  apply BitVec.eq_of_getLsbD_eq
  intro i hi
  rw [hiLane_getLsbD _ _ hi, hiLane_getLsbD _ _ hi, combine_getLsbD]
  have : (0x00FF#16 : Word).getLsbD (8 + i) = false := by
    revert hi; revert i; decide
  simp [this]

theorem loLane_combine_low (old data : Word) : loLane (combine old data 0x00FF#16) = loLane data := by
  apply BitVec.eq_of_getLsbD_eq
  intro i hi
  rw [loLane_getLsbD _ _ hi, loLane_getLsbD _ _ hi, combine_getLsbD]
  have : (0x00FF#16 : Word).getLsbD i = true := by
    revert hi; revert i; decide
  simp [this]

theorem hiLane_combine_high (old data : Word) : hiLane (combine old data 0xFF00#16) = hiLane data := by
  apply BitVec.eq_of_getLsbD_eq
  intro i hi
  rw [hiLane_getLsbD _ _ hi, hiLane_getLsbD _ _ hi, combine_getLsbD]
  have : (0xFF00#16 : Word).getLsbD (8 + i) = true := by
    revert hi; revert i; decide
  simp [this]

theorem loLane_combine_high (old data : Word) : loLane (combine old data 0xFF00#16) = loLane old := by
  apply BitVec.eq_of_getLsbD_eq
  intro i hi
  rw [loLane_getLsbD _ _ hi, loLane_getLsbD _ _ hi, combine_getLsbD]
  have : (0xFF00#16 : Word).getLsbD i = false := by
    revert hi; revert i; decide
  simp [this]

end Sys2Proof.Machine
end

