-- ==== Sys2Proof/Laws/Decode.lean ====
section
/-! SUPPORT. Laws of the request word and of the window ids: the fields of an encoded word, and the window of an id. -/

namespace Sys2Proof

/-- `DIR` of a request word. -/
@[simp] theorem dirField_requestWord (d : Dir) (win : BitVec 5) (off : BitVec 17) :
    dirField (requestWord d win off) = d := by
  cases d <;> simp [dirField, requestWord, dirBit]

/-- `WIN` of a request word. -/
@[simp] theorem winField_requestWord (d : Dir) (win : BitVec 5) (off : BitVec 17) :
    winField (requestWord d win off) = win := by
  apply BitVec.eq_of_getLsbD_eq
  intro i hi
  have h1 : (dirBit d).getLsbD (26 + i) = false := by
    revert hi; revert i; cases d <;> decide
  have h2 : (off.setWidth 32).getLsbD (26 + i) = false := by
    rw [BitVec.getLsbD_setWidth, BitVec.getLsbD_of_ge off _ (by omega), Bool.and_false]
  have h3 : (win.setWidth 32 <<< 26).getLsbD (26 + i) = win.getLsbD i := by
    have : 26 + i < 32 := by omega
    simp [hi, this]
  simp only [winField, BitVec.getLsbD_extractLsb', hi, decide_true, Bool.true_and, requestWord, BitVec.getLsbD_or,
    h1, h2, h3, Bool.false_or, Bool.or_false]

/-- `RSV` of a request word is 0. -/
@[simp] theorem rsvField_requestWord (d : Dir) (win : BitVec 5) (off : BitVec 17) :
    rsvField (requestWord d win off) = 0#9 := by
  apply BitVec.eq_of_getLsbD_eq
  intro i hi
  have h1 : (dirBit d).getLsbD (17 + i) = false := by
    revert hi; revert i; cases d <;> decide
  have h2 : (off.setWidth 32).getLsbD (17 + i) = false := by
    rw [BitVec.getLsbD_setWidth, BitVec.getLsbD_of_ge off _ (by omega), Bool.and_false]
  have h3 : (win.setWidth 32 <<< 26).getLsbD (17 + i) = false := by
    have : 17 + i < 26 := by omega
    simp [this]
  simp only [rsvField, BitVec.getLsbD_extractLsb', hi, decide_true, Bool.true_and, requestWord, BitVec.getLsbD_or,
    h1, h2, h3, Bool.or_false, BitVec.getLsbD_zero]

/-- `OFF` of a request word. -/
@[simp] theorem offField_requestWord (d : Dir) (win : BitVec 5) (off : BitVec 17) :
    offField (requestWord d win off) = off := by
  apply BitVec.eq_of_getLsbD_eq
  intro i hi
  have h1 : (dirBit d).getLsbD i = false := by
    revert hi; revert i; cases d <;> decide
  have h2 : (off.setWidth 32).getLsbD i = off.getLsbD i := by
    have : i < 32 := by omega
    simp [this]
  have h3 : (win.setWidth 32 <<< 26).getLsbD i = false := by
    have : i < 26 := by omega
    simp [this]
  simp only [offField, BitVec.getLsbD_extractLsb', hi, decide_true, Bool.true_and, Nat.zero_add, requestWord,
    BitVec.getLsbD_or, h1, h2, h3, Bool.false_or, Bool.or_false]

/-- A word with `RSV` 0 is the request word of its fields. -/
theorem requestWord_fields (q : BitVec 32) (h : rsvField q = 0#9) :
    requestWord (dirField q) (winField q) (offField q) = q := by
  apply BitVec.eq_of_getLsbD_eq
  intro i hi
  have hrsv : ∀ k, k < 9 → q.getLsbD (17 + k) = false := by
    intro k hk
    have := congrArg (fun v => v.getLsbD k) h
    simpa only [rsvField, BitVec.getLsbD_extractLsb', hk, decide_true, Bool.true_and, BitVec.getLsbD_zero] using this
  have hd : (dirBit (dirField q)).getLsbD i = (decide (i = 31) && q.getLsbD 31) := by
    unfold dirField
    split
    · rename_i h31
      rw [h31]
      revert hi; revert i; decide
    · rename_i h31
      simp only [Bool.not_eq_true] at h31
      rw [h31]
      revert hi; revert i; decide
  have hw : ((winField q).setWidth 32 <<< 26).getLsbD i = (decide (26 ≤ i ∧ i < 31) && q.getLsbD i) := by
    rw [BitVec.getLsbD_shiftLeft, BitVec.getLsbD_setWidth, winField, BitVec.getLsbD_extractLsb']
    by_cases h1 : i < 26
    · have : ¬ 26 ≤ i := by omega
      simp [h1, this]
    · have e : 26 + (i - 26) = i := by omega
      have e1 : i - 26 < 32 := by omega
      rw [e]
      by_cases h2 : i < 31
      · have : i - 26 < 5 := by omega
        have h3 : 26 ≤ i := by omega
        simp [hi, h1, e1, this, h2, h3]
      · have : ¬ i - 26 < 5 := by omega
        simp [this, h2]
  have ho : ((offField q).setWidth 32).getLsbD i = (decide (i < 17) && q.getLsbD i) := by
    rw [BitVec.getLsbD_setWidth, offField, BitVec.getLsbD_extractLsb']
    simp [hi]
  rw [requestWord, BitVec.getLsbD_or, BitVec.getLsbD_or, hd, hw, ho]
  by_cases h1 : i < 17
  · have e1 : i ≠ 31 := by omega
    have e2 : ¬ 26 ≤ i := by omega
    simp [h1, e1, e2]
  · by_cases h2 : i < 26
    · have e1 : i ≠ 31 := by omega
      have e2 : ¬ 26 ≤ i := by omega
      have e3 := hrsv (i - 17) (by omega)
      rw [show 17 + (i - 17) = i by omega] at e3
      simp [e3, e1]
    · by_cases h3 : i = 31
      · subst h3; simp
      · have e2 : 26 ≤ i := by omega
        have e3 : i < 31 := by omega
        simp [h1, h3, e2, e3]

/-- The window of a window's id (R91). -/
@[simp] theorem Window.ofId_id (w : Window) : Window.ofId w.id = some w := by
  cases w with
  | td L => cases L <;> decide
  | rsb L => cases L <;> decide
  | ctrl b => cases b <;> decide
  | _ => decide

/-- The id of an id's window (R91). -/
theorem Window.id_of_ofId {n : BitVec 5} {w : Window} (h : Window.ofId n = some w) : w.id = n := by
  have all : ∀ n : BitVec 5, ∀ w, Window.ofId n = some w → w.id = n := by
    have key : ∀ n : BitVec 5, (match Window.ofId n with
        | some w => w.id == n
        | none => true) = true := by decide
    intro n w hw
    have := key n
    rw [hw] at this
    simpa using this
  exact all n w h

/-- No window has the id of a host event (R91). -/
@[simp] theorem Window.id_ne_eventWin (w : Window) : w.id ≠ eventWin := by
  cases w with
  | td L => cases L <;> decide
  | rsb L => cases L <;> decide
  | ctrl b => cases b <;> decide
  | _ => decide

end Sys2Proof
end

