-- ==== Sys2Proof/Laws/HostBus.lean ====
section
/-! SUPPORT. Laws of the host's side of the bus: the even word offset of a byte offset, and how a transaction request decodes. -/

namespace Sys2Proof.Machine

/-- The even word offset is the byte offset with its lowest bit cleared (R66). -/
theorem evenOffset_eq (off : BitVec 17) : evenOffset off = (off >>> 1) <<< 1 := by
  apply BitVec.eq_of_getLsbD_eq
  intro i hi
  have h : ∀ i, i < 17 → (0x1FFFE#17 : BitVec 17).getLsbD i = decide (1 ≤ i) := by decide
  rw [evenOffset, BitVec.getLsbD_and, h i hi, BitVec.getLsbD_shiftLeft, BitVec.getLsbD_ushiftRight]
  by_cases h1 : i < 1
  · have : ¬ 1 ≤ i := by omega
    simp [h1, this]
  · have : 1 ≤ i := by omega
    have e : 1 + (i - 1) = i := by omega
    simp [hi, h1, this, e]

theorem evenOffset_toNat (off : BitVec 17) : (evenOffset off).toNat = off.toNat - off.toNat % 2 := by
  have h := off.isLt
  rw [evenOffset_eq, BitVec.toNat_shiftLeft, BitVec.toNat_ushiftRight, Nat.shiftLeft_eq, Nat.shiftRight_eq_div_pow]
  omega

@[simp] theorem offEven_evenOffset (off : BitVec 17) : offEven (evenOffset off) = true := by
  simp [offEven, evenOffset]

/-- A request with `RSV` 0 for a window decodes as the checks of R94 say of its offset and direction. -/
theorem decode_requestWord (c : Config) (d : Dir) (w : Window) (off : BitVec 17) (data mask : Word) :
    decode c ⟨requestWord d w.id off, data, mask⟩ =
      if offEven off = false then .reject .oddOffset
      else if w.allows d = false then .reject .wrongDirection
      else if w.size c ≤ off.toNat then .reject .outOfWindow
      else .instr (transactionOf w d off data mask) := by
  simp [decode, decodeTransaction]

/-- A write request of an even offset inside a window that has writes decodes to the window's write. -/
theorem decode_writeRequest {c : Config} {w : Window} {off : BitVec 17} (data mask : Word) (he : offEven off = true)
    (hd : w.allows .write = true) (hs : off.toNat < w.size c) :
    decode c (writeRequest w off data mask) = .instr (transactionOf w .write off data mask) := by
  simp [writeRequest, decode_requestWord, he, hd, hs]

/-- A read request of an even offset inside a window that has reads decodes to the window's read. -/
theorem decode_readRequest {c : Config} {w : Window} {off : BitVec 17} (he : offEven off = true)
    (hd : w.allows .read = true) (hs : off.toNat < w.size c) :
    decode c (readRequest w off) = .instr (transactionOf w .read off 0#16 0#16) := by
  simp [readRequest, decode_requestWord, he, hd, hs]

end Sys2Proof.Machine
end

