-- ==== Sys2Proof/Laws/Memory.lean ====
section
/-! SUPPORT. Laws of the byte memories: read after write, the canonical form, and the word operations over them. -/

namespace Sys2Proof.Machine

theorem cellAt_insertCell (l : List Host.Cell) (a : Nat) (v : Byte) (b : Nat) :
    cellAt (insertCell a v l) b = if b = a then some v else cellAt l b := by
  induction l with
  | nil => simp only [insertCell, cellAt, eq_comm]
  | cons p rest ih =>
    obtain ⟨k, w⟩ := p
    simp only [insertCell]
    split
    · simp only [cellAt, eq_comm (a := b)]
    · split
      · subst_vars
        by_cases h : b = k <;> simp [cellAt, h, eq_comm]
      · by_cases hk : k = b
        · subst hk
          have : k ≠ a := by omega
          simp [cellAt, this]
        · simp [cellAt, hk, ih]

theorem cellAt_eraseCell (l : List Host.Cell) (a b : Nat) :
    cellAt (eraseCell a l) b = if b = a then none else cellAt l b := by
  induction l with
  | nil => simp [eraseCell, cellAt]
  | cons p rest ih =>
    obtain ⟨k, w⟩ := p
    simp only [eraseCell]
    split
    · subst_vars
      by_cases h : b = k
      · subst h
        simpa using ih
      · simp [ih, h, cellAt, Ne.symm h]
    · by_cases hk : k = b
      · subst hk
        rename_i hne
        simp [cellAt, hne]
      · simp [cellAt, hk, ih]

@[simp] theorem Memory.writeByte_fill (m : Memory) (a : Nat) (v : Byte) : (m.writeByte a v).fill = m.fill := by
  unfold Memory.writeByte
  split <;> rfl

/-- Reading after writing one byte: the value written at its address, every other address as before. -/
theorem Memory.readByte_writeByte (m : Memory) (a : Nat) (v : Byte) (b : Nat) :
    (m.writeByte a v).readByte b = if b = a then v else m.readByte b := by
  unfold Memory.readByte Memory.writeByte
  split
  · rename_i h
    simp only [cellAt_eraseCell]
    split
    · subst_vars; simp
    · rfl
  · simp only [cellAt_insertCell]
    split <;> simp

theorem mem_insertCell {l : List Host.Cell} {a : Nat} {v : Byte} {p : Host.Cell} (h : p ∈ insertCell a v l) :
    p = (a, v) ∨ p ∈ l := by
  induction l with
  | nil => simpa [insertCell] using h
  | cons q rest ih =>
    obtain ⟨k, w⟩ := q
    simp only [insertCell] at h
    split at h
    · simpa using h
    · split at h
      · simp only [List.mem_cons] at h ⊢
        tauto
      · simp only [List.mem_cons] at h ⊢
        rcases h with h | h
        · exact .inr (.inl h)
        · rcases ih h with h | h
          · exact .inl h
          · exact .inr (.inr h)

theorem mem_eraseCell {l : List Host.Cell} {a : Nat} {p : Host.Cell} (h : p ∈ eraseCell a l) : p ∈ l ∧ p.1 ≠ a := by
  induction l with
  | nil => simp [eraseCell] at h
  | cons q rest ih =>
    obtain ⟨k, w⟩ := q
    simp only [eraseCell] at h
    split at h
    · exact ⟨List.mem_cons_of_mem _ (ih h).1, (ih h).2⟩
    · rename_i hk
      simp only [List.mem_cons] at h ⊢
      rcases h with h | h
      · subst h; exact ⟨.inl rfl, hk⟩
      · exact ⟨.inr (ih h).1, (ih h).2⟩

theorem rising_insertCell {l : List Host.Cell} {a : Nat} {v : Byte} (h : l.Pairwise (fun p q => p.1 < q.1)) :
    (insertCell a v l).Pairwise (fun p q => p.1 < q.1) := by
  induction l with
  | nil => simp [insertCell]
  | cons q rest ih =>
    obtain ⟨k, w⟩ := q
    rw [List.pairwise_cons] at h
    simp only [insertCell]
    split
    · rename_i hlt
      refine List.pairwise_cons.2 ⟨?_, List.pairwise_cons.2 h⟩
      intro p hp
      rcases List.mem_cons.1 hp with rfl | hp
      · exact hlt
      · exact Nat.lt_trans hlt (h.1 p hp)
    · split
      · subst_vars
        exact List.pairwise_cons.2 ⟨h.1, h.2⟩
      · refine List.pairwise_cons.2 ⟨?_, ih h.2⟩
        intro p hp
        rcases mem_insertCell hp with rfl | hp
        · show k < a
          omega
        · exact h.1 p hp

theorem rising_eraseCell {l : List Host.Cell} {a : Nat} (h : l.Pairwise (fun p q => p.1 < q.1)) :
    (eraseCell a l).Pairwise (fun p q => p.1 < q.1) := by
  induction l with
  | nil => simp [eraseCell]
  | cons q rest ih =>
    obtain ⟨k, w⟩ := q
    rw [List.pairwise_cons] at h
    simp only [eraseCell]
    split
    · exact ih h.2
    · exact List.pairwise_cons.2 ⟨fun p hp => h.1 p (mem_eraseCell hp).1, ih h.2⟩

/-- A byte write keeps the canonical form. -/
theorem Memory.wf_writeByte {m : Memory} (h : m.wf) (a : Nat) (v : Byte) : (m.writeByte a v).wf := by
  unfold Memory.writeByte
  split
  · exact ⟨rising_eraseCell h.1, fun p hp => h.2 p (mem_eraseCell hp).1⟩
  · rename_i hv
    refine ⟨rising_insertCell h.1, fun p hp => ?_⟩
    rcases mem_insertCell hp with rfl | hp
    · exact hv
    · exact h.2 p hp

/-- A memory in which nothing is listed is canonical. -/
theorem Memory.wf_blank (f : Fill) : (Memory.blank f).wf := by simp [Memory.wf, Memory.blank]

@[simp] theorem Memory.readByte_blank (f : Fill) (a : Nat) : (Memory.blank f).readByte a = f.byte a := rfl

/-- A word of a memory that lists nothing over zero is zero. -/
@[simp] theorem Memory.readWord_blank_zero (w : Nat) : (Memory.blank .zero).readWord w = 0#16 := by
  have h : ofLanes 0#8 0#8 = 0#16 := by decide
  simpa [Memory.readWord, Fill.byte] using h

/-- A byte write lists no address but its own and those listed before. -/
theorem Memory.mem_writeByte {m : Memory} {a : Nat} {v : Byte} {p : Host.Cell} (h : p ∈ (m.writeByte a v).cells) :
    p.1 = a ∨ p ∈ m.cells := by
  unfold Memory.writeByte at h
  split at h
  · exact .inr (mem_eraseCell h).1
  · rcases mem_insertCell h with rfl | h
    · exact .inl rfl
    · exact .inr h

theorem cellAt_eq_none {l : List Host.Cell} {a : Nat} (h : ∀ p ∈ l, p.1 ≠ a) : cellAt l a = none := by
  induction l with
  | nil => rfl
  | cons q rest ih =>
    obtain ⟨k, w⟩ := q
    have hk : k ≠ a := h (k, w) (by simp)
    simp only [cellAt, hk, if_false]
    exact ih (fun p hp => h p (List.mem_cons_of_mem _ hp))

theorem cells_eq_of_cellAt {l l' : List Host.Cell} (h : l.Pairwise (fun p q => p.1 < q.1))
    (h' : l'.Pairwise (fun p q => p.1 < q.1)) (he : ∀ a, cellAt l a = cellAt l' a) : l = l' := by
  induction l generalizing l' with
  | nil =>
    cases l' with
    | nil => rfl
    | cons q rest => have := he q.1; simp [cellAt] at this
  | cons p rest ih =>
    cases l' with
    | nil => have := he p.1; simp [cellAt] at this
    | cons q rest' =>
      rw [List.pairwise_cons] at h h'
      obtain ⟨k, v⟩ := p
      obtain ⟨k', v'⟩ := q
      have hkk : k = k' := by
        rcases Nat.lt_trichotomy k k' with hlt | heq | hgt
        · have h1 := he k
          have h2 : cellAt rest' k = none :=
            cellAt_eq_none (fun p hp => by have := h'.1 p hp; simp only at this; omega)
          simp [cellAt, h2, Nat.ne_of_gt hlt] at h1
        · exact heq
        · have h1 := he k'
          have h2 : cellAt rest k' = none :=
            cellAt_eq_none (fun p hp => by have := h.1 p hp; simp only at this; omega)
          simp [cellAt, h2, Nat.ne_of_gt hgt] at h1
      subst hkk
      have hv : v = v' := by simpa [cellAt] using he k
      subst hv
      congr 1
      refine ih h.2 h'.2 (fun a => ?_)
      by_cases ha : k = a
      · subst ha
        rw [cellAt_eq_none (fun p hp => Nat.ne_of_gt (h.1 p hp)),
          cellAt_eq_none (fun p hp => Nat.ne_of_gt (h'.1 p hp))]
      · simpa [cellAt, ha] using he a

theorem mem_of_cellAt {l : List Host.Cell} {a : Nat} {v : Byte} (h : cellAt l a = some v) : (a, v) ∈ l := by
  induction l with
  | nil => simp [cellAt] at h
  | cons q rest ih =>
    obtain ⟨k, w⟩ := q
    simp only [cellAt] at h
    split at h
    · subst_vars; simp_all
    · exact List.mem_cons_of_mem _ (ih h)

/-- Equal memories are equal data: canonical memories over one fill that read alike are the same list. -/
theorem Memory.eq_of_readByte {m m' : Memory} (h : m.wf) (h' : m'.wf) (hf : m.fill = m'.fill)
    (he : ∀ a, m.readByte a = m'.readByte a) : m = m' := by
  obtain ⟨f, l⟩ := m
  obtain ⟨f', l'⟩ := m'
  simp only at hf
  subst hf
  congr 1
  refine cells_eq_of_cellAt h.1 h'.1 (fun a => ?_)
  have ha := he a
  simp only [Memory.readByte] at ha
  cases h1 : cellAt l a with
  | none =>
    cases h2 : cellAt l' a with
    | none => rfl
    | some v =>
      have := h'.2 _ (mem_of_cellAt h2)
      simp_all
  | some v =>
    cases h2 : cellAt l' a with
    | none =>
      have := h.2 _ (mem_of_cellAt h1)
      simp_all
    | some v' => simp_all

@[simp] theorem Memory.writeWord_fill (m : Memory) (w : Nat) (v : Word) : (m.writeWord w v).fill = m.fill := by
  simp [Memory.writeWord]

/-- Reading a byte after writing a word. -/
theorem Memory.readByte_writeWord (m : Memory) (w : Nat) (v : Word) (a : Nat) :
    (m.writeWord w v).readByte a =
      if a = hiOffset w then hiLane v else if a = loOffset w then loLane v else m.readByte a := by
  simp only [Memory.writeWord, Memory.readByte_writeByte]
  by_cases h1 : a = hiOffset w
  · have h2 : a ≠ loOffset w := by
      simp only [hiOffset, loOffset] at *
      omega
    rw [if_neg h2, if_pos h1, if_pos h1]
  · simp [h1]

/-- Reading a word after writing one: the value written, every other word as before. -/
theorem Memory.readWord_writeWord (m : Memory) (w : Nat) (v : Word) (w' : Nat) :
    (m.writeWord w v).readWord w' = if w' = w then v else m.readWord w' := by
  by_cases h : w' = w
  · subst h
    have h1 : loOffset w' ≠ hiOffset w' := by simp only [hiOffset, loOffset]; omega
    simp [Memory.readWord, Memory.readByte_writeWord, h1]
  · have h1 : hiOffset w' ≠ hiOffset w := by simp only [hiOffset]; omega
    have h2 : hiOffset w' ≠ loOffset w := by simp only [hiOffset, loOffset]; omega
    have h3 : loOffset w' ≠ hiOffset w := by simp only [hiOffset, loOffset]; omega
    have h4 : loOffset w' ≠ loOffset w := by simp only [loOffset]; omega
    simp [Memory.readWord, Memory.readByte_writeWord, h, h1, h2, h3, h4]

/-- A word write keeps the canonical form. -/
theorem Memory.wf_writeWord {m : Memory} (h : m.wf) (w : Nat) (v : Word) : (m.writeWord w v).wf :=
  Memory.wf_writeByte (Memory.wf_writeByte h _ _) _ _

@[simp] theorem Memory.combineAt_fill (m : Memory) (w : Nat) (data mask : Word) :
    (m.combineAt w data mask).fill = m.fill := by
  simp [Memory.combineAt]

/-- The combine-write of R10: its own word is combined, every other word as before. -/
theorem Memory.readWord_combineAt (m : Memory) (w : Nat) (data mask : Word) (w' : Nat) :
    (m.combineAt w data mask).readWord w' =
      if w' = w then combine (m.readWord w) data mask else m.readWord w' :=
  Memory.readWord_writeWord m w _ w'

/-- The combine-write, byte by byte. -/
theorem Memory.readByte_combineAt (m : Memory) (w : Nat) (data mask : Word) (a : Nat) :
    (m.combineAt w data mask).readByte a =
      if a = hiOffset w then hiLane (combine (m.readWord w) data mask)
      else if a = loOffset w then loLane (combine (m.readWord w) data mask) else m.readByte a :=
  Memory.readByte_writeWord m w _ a

/-- The combine-write keeps the canonical form. -/
theorem Memory.wf_combineAt {m : Memory} (h : m.wf) (w : Nat) (data mask : Word) : (m.combineAt w data mask).wf :=
  Memory.wf_writeWord h _ _

/-- A combine-write lists no address but the two bytes of its word and those listed before. -/
theorem Memory.mem_combineAt {m : Memory} {w : Nat} {data mask : Word} {p : Host.Cell}
    (h : p ∈ (m.combineAt w data mask).cells) : p.1 = hiOffset w ∨ p.1 = loOffset w ∨ p ∈ m.cells := by
  rcases Memory.mem_writeByte h with h | h
  · exact .inr (.inl h)
  · rcases Memory.mem_writeByte h with h | h
    · exact .inl h
    · exact .inr (.inr h)

@[simp] theorem Memory.hiLane_readWord (m : Memory) (w : Nat) : hiLane (m.readWord w) = m.readByte (hiOffset w) := by
  simp [Memory.readWord]

@[simp] theorem Memory.loLane_readWord (m : Memory) (w : Nat) : loLane (m.readWord w) = m.readByte (loOffset w) := by
  simp [Memory.readWord]

end Sys2Proof.Machine
end

