-- ==== Sys2Proof/Laws/State.lean ====
section
/-! SUPPORT. The fields of the state after each update: one lemma per field per update, and the buffers among themselves. -/

namespace Sys2Proof

@[simp] theorem PerLayer.get_set {α : Type} (p : PerLayer α) (L L' : Layer) (v : α) :
    (p.set L v).get L' = if L' = L then v else p.get L' := by
  cases L <;> cases L' <;> rfl

@[simp] theorem PerBlock.get_set {α : Type} (p : PerBlock α) (b b' : Block) (v : α) :
    (p.set b v).get b' = if b' = b then v else p.get b' := by
  cases b <;> cases b' <;> rfl

end Sys2Proof

namespace Sys2Proof.Machine

variable (s : State)

/-- A buffer after a buffer is replaced. -/
theorem State.setMem_mem (sp : Space) (m : Memory) (sp' : Space) :
    (s.setMem sp m).mem sp' = if sp' = sp then m else s.mem sp' := by
  cases sp <;> cases sp' <;> simp [State.setMem, State.mem]

@[simp] theorem State.setMem_mem_self (sp : Space) (m : Memory) : (s.setMem sp m).mem sp = m := by
  simp [State.setMem_mem]

theorem State.setMem_mem_of_ne {sp sp' : Space} (m : Memory) (h : sp' ≠ sp) : (s.setMem sp m).mem sp' = s.mem sp' := by
  simp [State.setMem_mem, h]

@[simp] theorem State.setMem_cfg (sp : Space) (m : Memory) : (s.setMem sp m).cfg = s.cfg := by
  cases sp <;> rfl
@[simp] theorem State.setMem_frame (sp : Space) (m : Memory) : (s.setMem sp m).frame = s.frame := by
  cases sp <;> rfl
@[simp] theorem State.setMem_suspend (sp : Space) (m : Memory) : (s.setMem sp m).suspend = s.suspend := by
  cases sp <;> rfl
@[simp] theorem State.setMem_dirty (sp : Space) (m : Memory) : (s.setMem sp m).dirty = s.dirty := by
  cases sp <;> rfl
@[simp] theorem State.setMem_usedSprColours (sp : Space) (m : Memory) : (s.setMem sp m).usedSprColours = s.usedSprColours := by
  cases sp <;> rfl
@[simp] theorem State.setMem_hist (sp : Space) (m : Memory) : (s.setMem sp m).hist = s.hist := by
  cases sp <;> rfl
@[simp] theorem State.setMem_img (sp : Space) (m : Memory) : (s.setMem sp m).img = s.img := by
  cases sp <;> rfl
@[simp] theorem State.setMem_reqs (sp : Space) (m : Memory) : (s.setMem sp m).reqs = s.reqs := by
  cases sp <;> rfl
@[simp] theorem State.setMem_readData (sp : Space) (m : Memory) : (s.setMem sp m).readData = s.readData := by
  cases sp <;> rfl
@[simp] theorem State.setMem_draws (sp : Space) (m : Memory) : (s.setMem sp m).draws = s.draws := by
  cases sp <;> rfl

@[simp] theorem State.emit_cfg (e : Event) : (s.emit e).cfg = s.cfg := rfl
@[simp] theorem State.emit_frame (e : Event) : (s.emit e).frame = s.frame := rfl
@[simp] theorem State.emit_suspend (e : Event) : (s.emit e).suspend = s.suspend := rfl
@[simp] theorem State.emit_dirty (e : Event) : (s.emit e).dirty = s.dirty := rfl
@[simp] theorem State.emit_usedSprColours (e : Event) : (s.emit e).usedSprColours = s.usedSprColours := rfl
@[simp] theorem State.emit_hist (e : Event) : (s.emit e).hist = s.hist ++ [e] := rfl
@[simp] theorem State.emit_img (e : Event) : (s.emit e).img = s.img := rfl
@[simp] theorem State.emit_reqs (e : Event) : (s.emit e).reqs = s.reqs := rfl
@[simp] theorem State.emit_readData (e : Event) : (s.emit e).readData = s.readData := rfl
@[simp] theorem State.emit_draws (e : Event) : (s.emit e).draws = s.draws := rfl
@[simp] theorem State.emit_mem (e : Event) (sp : Space) : (s.emit e).mem sp = s.mem sp := by
  cases sp <;> rfl

@[simp] theorem State.respond_cfg (v : Word) : (s.respond v).cfg = s.cfg := rfl
@[simp] theorem State.respond_frame (v : Word) : (s.respond v).frame = s.frame := rfl
@[simp] theorem State.respond_suspend (v : Word) : (s.respond v).suspend = s.suspend := rfl
@[simp] theorem State.respond_dirty (v : Word) : (s.respond v).dirty = s.dirty := rfl
@[simp] theorem State.respond_usedSprColours (v : Word) : (s.respond v).usedSprColours = s.usedSprColours := rfl
@[simp] theorem State.respond_hist (v : Word) : (s.respond v).hist = s.hist := rfl
@[simp] theorem State.respond_img (v : Word) : (s.respond v).img = s.img := rfl
@[simp] theorem State.respond_reqs (v : Word) : (s.respond v).reqs = s.reqs := rfl
@[simp] theorem State.respond_readData (v : Word) : (s.respond v).readData = v := rfl
@[simp] theorem State.respond_draws (v : Word) : (s.respond v).draws = s.draws := rfl
@[simp] theorem State.respond_mem (v : Word) (sp : Space) : (s.respond v).mem sp = s.mem sp := by
  cases sp <;> rfl

@[simp] theorem State.setReqs_cfg (q : List Request) : (s.setReqs q).cfg = s.cfg := rfl
@[simp] theorem State.setReqs_frame (q : List Request) : (s.setReqs q).frame = s.frame := rfl
@[simp] theorem State.setReqs_suspend (q : List Request) : (s.setReqs q).suspend = s.suspend := rfl
@[simp] theorem State.setReqs_dirty (q : List Request) : (s.setReqs q).dirty = s.dirty := rfl
@[simp] theorem State.setReqs_usedSprColours (q : List Request) : (s.setReqs q).usedSprColours = s.usedSprColours := rfl
@[simp] theorem State.setReqs_hist (q : List Request) : (s.setReqs q).hist = s.hist := rfl
@[simp] theorem State.setReqs_img (q : List Request) : (s.setReqs q).img = s.img := rfl
@[simp] theorem State.setReqs_reqs (q : List Request) : (s.setReqs q).reqs = q := rfl
@[simp] theorem State.setReqs_readData (q : List Request) : (s.setReqs q).readData = s.readData := rfl
@[simp] theorem State.setReqs_draws (q : List Request) : (s.setReqs q).draws = s.draws := rfl
@[simp] theorem State.setReqs_mem (q : List Request) (sp : Space) : (s.setReqs q).mem sp = s.mem sp := by
  cases sp <;> rfl

@[simp] theorem State.holdHost_cfg : (s.holdHost).cfg = s.cfg := rfl
@[simp] theorem State.holdHost_frame : (s.holdHost).frame = s.frame := rfl
@[simp] theorem State.holdHost_suspend : (s.holdHost).suspend = true := rfl
@[simp] theorem State.holdHost_dirty : (s.holdHost).dirty = s.dirty := rfl
@[simp] theorem State.holdHost_usedSprColours : (s.holdHost).usedSprColours = s.usedSprColours := rfl
@[simp] theorem State.holdHost_hist : (s.holdHost).hist = s.hist := rfl
@[simp] theorem State.holdHost_img : (s.holdHost).img = s.img := rfl
@[simp] theorem State.holdHost_reqs : (s.holdHost).reqs = s.reqs := rfl
@[simp] theorem State.holdHost_readData : (s.holdHost).readData = s.readData := rfl
@[simp] theorem State.holdHost_draws : (s.holdHost).draws = s.draws := rfl
@[simp] theorem State.holdHost_mem (sp : Space) : (s.holdHost).mem sp = s.mem sp := by
  cases sp <;> rfl

@[simp] theorem State.releaseHost_cfg : (s.releaseHost).cfg = s.cfg := rfl
@[simp] theorem State.releaseHost_frame : (s.releaseHost).frame = s.frame := rfl
@[simp] theorem State.releaseHost_suspend : (s.releaseHost).suspend = false := rfl
@[simp] theorem State.releaseHost_dirty : (s.releaseHost).dirty = s.dirty := rfl
@[simp] theorem State.releaseHost_usedSprColours : (s.releaseHost).usedSprColours = s.usedSprColours := rfl
@[simp] theorem State.releaseHost_hist : (s.releaseHost).hist = s.hist := rfl
@[simp] theorem State.releaseHost_img : (s.releaseHost).img = s.img := rfl
@[simp] theorem State.releaseHost_reqs : (s.releaseHost).reqs = s.reqs := rfl
@[simp] theorem State.releaseHost_readData : (s.releaseHost).readData = s.readData := rfl
@[simp] theorem State.releaseHost_draws : (s.releaseHost).draws = s.draws := rfl
@[simp] theorem State.releaseHost_mem (sp : Space) : (s.releaseHost).mem sp = s.mem sp := by
  cases sp <;> rfl

@[simp] theorem State.markDirty_cfg (L : Layer) (w : Nat) : (s.markDirty L w).cfg = s.cfg := rfl
@[simp] theorem State.markDirty_frame (L : Layer) (w : Nat) : (s.markDirty L w).frame = s.frame := rfl
@[simp] theorem State.markDirty_suspend (L : Layer) (w : Nat) : (s.markDirty L w).suspend = s.suspend := rfl
@[simp] theorem State.markDirty_dirty (L : Layer) (w : Nat) : (s.markDirty L w).dirty = s.dirty.set L (s.dirty.get L ||| BitVec.twoPow 2048 w) := rfl
@[simp] theorem State.markDirty_usedSprColours (L : Layer) (w : Nat) : (s.markDirty L w).usedSprColours = s.usedSprColours := rfl
@[simp] theorem State.markDirty_hist (L : Layer) (w : Nat) : (s.markDirty L w).hist = s.hist := rfl
@[simp] theorem State.markDirty_img (L : Layer) (w : Nat) : (s.markDirty L w).img = s.img := rfl
@[simp] theorem State.markDirty_reqs (L : Layer) (w : Nat) : (s.markDirty L w).reqs = s.reqs := rfl
@[simp] theorem State.markDirty_readData (L : Layer) (w : Nat) : (s.markDirty L w).readData = s.readData := rfl
@[simp] theorem State.markDirty_draws (L : Layer) (w : Nat) : (s.markDirty L w).draws = s.draws := rfl
@[simp] theorem State.markDirty_mem (L : Layer) (w : Nat) (sp : Space) : (s.markDirty L w).mem sp = s.mem sp := by
  cases sp <;> rfl

@[simp] theorem State.readInput_cfg (p : PortId) : (s.readInput p).cfg = s.cfg := rfl
@[simp] theorem State.readInput_frame (p : PortId) : (s.readInput p).frame = s.frame := rfl
@[simp] theorem State.readInput_suspend (p : PortId) : (s.readInput p).suspend = s.suspend := rfl
@[simp] theorem State.readInput_dirty (p : PortId) : (s.readInput p).dirty = s.dirty := rfl
@[simp] theorem State.readInput_usedSprColours (p : PortId) : (s.readInput p).usedSprColours = s.usedSprColours := rfl
@[simp] theorem State.readInput_hist (p : PortId) : (s.readInput p).hist = s.hist := rfl
@[simp] theorem State.readInput_img (p : PortId) : (s.readInput p).img = s.img := rfl
@[simp] theorem State.readInput_reqs (p : PortId) : (s.readInput p).reqs = s.reqs := rfl
@[simp] theorem State.readInput_readData (p : PortId) : (s.readInput p).readData = Config.inputDraw s.draws p := rfl
@[simp] theorem State.readInput_draws (p : PortId) : (s.readInput p).draws = s.draws + 1 := rfl
@[simp] theorem State.readInput_mem (p : PortId) (sp : Space) : (s.readInput p).mem sp = s.mem sp := by
  cases sp <;> rfl

@[simp] theorem State.patchImage_cfg : (s.patchImage).cfg = s.cfg := rfl
@[simp] theorem State.patchImage_frame : (s.patchImage).frame = s.frame := rfl
@[simp] theorem State.patchImage_suspend : (s.patchImage).suspend = s.suspend := rfl
@[simp] theorem State.patchImage_dirty : (s.patchImage).dirty = s.dirty := rfl
@[simp] theorem State.patchImage_usedSprColours : (s.patchImage).usedSprColours = s.usedSprColours := rfl
@[simp] theorem State.patchImage_hist : (s.patchImage).hist = s.hist ++ (patchRun s.cfg.patch s.img).2.map Event.patched := rfl
@[simp] theorem State.patchImage_img : (s.patchImage).img = (patchRun s.cfg.patch s.img).1 := rfl
@[simp] theorem State.patchImage_reqs : (s.patchImage).reqs = s.reqs := rfl
@[simp] theorem State.patchImage_readData : (s.patchImage).readData = s.readData := rfl
@[simp] theorem State.patchImage_draws : (s.patchImage).draws = s.draws := rfl
@[simp] theorem State.patchImage_mem (sp : Space) : (s.patchImage).mem sp = s.mem sp := by
  cases sp <;> rfl

@[simp] theorem State.rendered_cfg : (s.rendered).cfg = s.cfg := rfl
@[simp] theorem State.rendered_frame : (s.rendered).frame = s.frame + 1 := rfl
@[simp] theorem State.rendered_suspend : (s.rendered).suspend = s.suspend := rfl
@[simp] theorem State.rendered_dirty : (s.rendered).dirty = s.dirty := rfl
@[simp] theorem State.rendered_usedSprColours : (s.rendered).usedSprColours = s.usedColours := rfl
@[simp] theorem State.rendered_hist : (s.rendered).hist = s.hist ++ [.plan s.renderPlan, .bitmap s.frame s.renderBitmap] := rfl
@[simp] theorem State.rendered_img : (s.rendered).img = s.img := rfl
@[simp] theorem State.rendered_reqs : (s.rendered).reqs = s.reqs := rfl
@[simp] theorem State.rendered_readData : (s.rendered).readData = s.readData := rfl
@[simp] theorem State.rendered_draws : (s.rendered).draws = s.draws := rfl
@[simp] theorem State.rendered_mem (sp : Space) : (s.rendered).mem sp = s.mem sp := by
  cases sp <;> rfl

@[simp] theorem State.resetDevice_cfg : (s.resetDevice).cfg = s.cfg := rfl
@[simp] theorem State.resetDevice_frame : (s.resetDevice).frame = s.cfg.frame0 := rfl
@[simp] theorem State.resetDevice_suspend : (s.resetDevice).suspend = false := rfl
@[simp] theorem State.resetDevice_usedSprColours : (s.resetDevice).usedSprColours = [] := rfl
@[simp] theorem State.resetDevice_hist : (s.resetDevice).hist = s.hist := rfl
@[simp] theorem State.resetDevice_img : (s.resetDevice).img = s.img := rfl
@[simp] theorem State.resetDevice_reqs : (s.resetDevice).reqs = s.reqs := rfl
@[simp] theorem State.resetDevice_readData : (s.resetDevice).readData = s.readData := rfl

/-- The buffers after a device reset (R290): the loopback file is zero, every other buffer has its reset contents. -/
theorem State.resetDevice_mem (sp : Space) :
    s.resetDevice.mem sp =
      Memory.blank (if sp = .lb then .zero else resetFill s.cfg.resetPolicy s.draws sp) := by
  cases sp with
  | lb => rfl
  | ctrl b => cases b <;> rfl
  | td L => cases L <;> rfl
  | rs L => cases L <;> rfl
  | pal => rfl
  | sprLive => rfl
  | sprBuf => rfl

theorem State.resetDevice_dirty (L : Layer) : s.resetDevice.dirty.get L = BitVec.allOnes 2048 := by
  cases L <;> rfl

theorem State.reset_mem (sp : Space) : State.reset.mem sp = Memory.blank .zero := by
  cases sp with
  | lb => rfl
  | ctrl b => cases b <;> rfl
  | td L => cases L <;> rfl
  | rs L => cases L <;> rfl
  | pal => rfl
  | sprLive => rfl
  | sprBuf => rfl

end Sys2Proof.Machine
end

