-- ==== Sys2Proof/Laws/Ops.lean ====
section
/-! SUPPORT. One spec lemma for each shared operation: what the masked store, the shared read, the mask check, the palette
store, the sound latch and the remapped read do, and what they leave. -/

namespace Sys2Proof.Machine

variable (s : State)

/-- The mask check answers next exactly on a lane mask (R65). -/
theorem guardMask_eq_next {mask : Word} {t u : State} :
    guardMask mask t = .next u ↔ isLaneMask mask = true ∧ t = u := by
  unfold guardMask
  split <;> simp_all

theorem guardMask_of_lane {mask : Word} (h : isLaneMask mask = true) (t : State) : guardMask mask t = .next t := by
  simp [guardMask, h]

theorem guardMask_of_not_lane {mask : Word} (h : isLaneMask mask = false) (t : State) :
    guardMask mask t = .refused .badMask := by
  simp [guardMask, h]

/-- A frame is transitive in what it lists. -/
theorem Frame.trans {c d : List Part} {s t u : State} (h : Frame c s t) (h' : Frame d t u) : Frame (c ++ d) s u := by
  intro p hp
  simp only [List.mem_append, not_or] at hp
  have h1 := h p hp.1
  have h2 := h' p hp.2
  cases p <;> simp only [Part.Same] at *
  case mem sp => exact fun a => (h2 a).trans (h1 a)
  all_goals exact h2.trans h1

/-- A frame may list more. -/
theorem Frame.mono {c d : List Part} {s t : State} (h : Frame c s t) (hcd : ∀ p ∈ c, p ∈ d) : Frame d s t :=
  fun p hp => h p (fun hc => hp (hcd p hc))

theorem Frame.refl (s : State) : Frame [] s s := fun p _ => by cases p <;> simp [Part.Same]

/-- Replacing a buffer leaves everything else. -/
theorem State.setMem_keeps (sp : Space) (m : Memory) : Frame [.mem sp] s (s.setMem sp m) := by
  intro p hp
  cases p with
  | mem sp' =>
    intro a
    rw [State.setMem_mem_of_ne]
    rintro rfl
    simp at hp
  | _ => simp [Part.Same]

/-- Emitting an event leaves everything but the history. -/
theorem State.emit_keeps (e : Event) : Frame [.hist] s (s.emit e) := by
  intro p hp
  cases p <;> simp_all [Part.Same]

/-- Returning a value leaves everything else. -/
theorem State.respond_keeps (v : Word) : Frame [.readData] s (s.respond v) := by
  intro p hp
  cases p <;> simp_all [Part.Same]

/-- The hold leaves everything but SUSPEND. -/
theorem State.holdHost_keeps : Frame [.suspend] s s.holdHost := by
  intro p hp
  cases p <;> simp_all [Part.Same]

/-- The end of the hold leaves everything but SUSPEND. -/
theorem State.releaseHost_keeps : Frame [.suspend] s s.releaseHost := by
  intro p hp
  cases p <;> simp_all [Part.Same]

/-- Taking a request leaves everything but the requests. -/
theorem State.setReqs_keeps (q : List Request) : Frame [.reqs] s (s.setReqs q) := by
  intro p hp
  cases p <;> simp_all [Part.Same]

/-- Marking a cell dirty leaves everything but the layer's dirty bits. -/
theorem State.markDirty_keeps (L : Layer) (w : Nat) : Frame [.dirty L] s (s.markDirty L w) := by
  intro p hp
  cases p <;> simp_all [Part.Same]

theorem State.markDirty_dirty_get (L L' : Layer) (w : Nat) :
    (s.markDirty L w).dirty.get L' =
      if L' = L then s.dirty.get L ||| BitVec.twoPow 2048 w else s.dirty.get L' := by
  simp

/-- An input read leaves everything but the value returned and the draw counter. -/
theorem State.readInput_keeps (p : PortId) : Frame [.readData, .draws] s (s.readInput p) := by
  intro p hp
  cases p <;> simp_all [Part.Same]

/-- The patch leaves everything but the image and the history. -/
theorem State.patchImage_keeps : Frame [.img, .hist] s s.patchImage := by
  intro p hp
  cases p <;> simp_all [Part.Same]

/-- A frame rendered leaves everything but the palette-usage set, the history and the counter. -/
theorem State.rendered_keeps : Frame [.usedSprColours, .hist, .frame] s s.rendered := by
  intro p hp
  cases p <;> simp_all [Part.Same]

/-- The masked store leaves everything but its buffer. -/
theorem State.storeMasked_keeps (sp : Space) (off : BitVec 17) (data mask : Word) :
    Frame [.mem sp] s (s.storeMasked sp off data mask) :=
  s.setMem_keeps sp _

theorem State.storeMasked_mem (sp : Space) (off : BitVec 17) (data mask : Word) (sp' : Space) :
    (s.storeMasked sp off data mask).mem sp' =
      if sp' = sp then (s.mem sp).combineAt (wordIndex off) data mask else s.mem sp' := by
  simp [State.storeMasked, State.setMem_mem]

/-- The words after the masked store: the addressed word is combined, every other word of every buffer is as before. -/
theorem State.storeMasked_wordAt (sp : Space) (off : BitVec 17) (data mask : Word) (sp' : Space) (w : Nat) :
    (s.storeMasked sp off data mask).wordAt sp' w =
      if sp' = sp ∧ w = wordIndex off then combine (s.wordAt sp w) data mask else s.wordAt sp' w := by
  unfold State.wordAt
  rw [State.storeMasked_mem]
  by_cases h : sp' = sp
  · subst h
    by_cases hw : w = wordIndex off
    · simp [Memory.readWord_combineAt, hw]
    · simp [Memory.readWord_combineAt, hw]
  · simp [h]

@[simp] theorem State.storeMasked_cfg (sp : Space) (off : BitVec 17) (data mask : Word) :
    (s.storeMasked sp off data mask).cfg = s.cfg := by simp [State.storeMasked]

@[simp] theorem State.storeMasked_hist (sp : Space) (off : BitVec 17) (data mask : Word) :
    (s.storeMasked sp off data mask).hist = s.hist := by simp [State.storeMasked]

@[simp] theorem State.storeMasked_reqs (sp : Space) (off : BitVec 17) (data mask : Word) :
    (s.storeMasked sp off data mask).reqs = s.reqs := by simp [State.storeMasked]

@[simp] theorem State.storeMasked_suspend (sp : Space) (off : BitVec 17) (data mask : Word) :
    (s.storeMasked sp off data mask).suspend = s.suspend := by simp [State.storeMasked]

@[simp] theorem State.storeMasked_frame (sp : Space) (off : BitVec 17) (data mask : Word) :
    (s.storeMasked sp off data mask).frame = s.frame := by simp [State.storeMasked]

@[simp] theorem State.storeMasked_img (sp : Space) (off : BitVec 17) (data mask : Word) :
    (s.storeMasked sp off data mask).img = s.img := by simp [State.storeMasked]

@[simp] theorem State.storeMasked_dirty (sp : Space) (off : BitVec 17) (data mask : Word) :
    (s.storeMasked sp off data mask).dirty = s.dirty := by simp [State.storeMasked]

@[simp] theorem State.storeMasked_usedSprColours (sp : Space) (off : BitVec 17) (data mask : Word) :
    (s.storeMasked sp off data mask).usedSprColours = s.usedSprColours := by simp [State.storeMasked]

/-- The masked store keeps every memory canonical. -/
theorem State.storeMasked_wf (h : ∀ sp, (s.mem sp).wf) (sp : Space) (off : BitVec 17) (data mask : Word) (sp' : Space) :
    ((s.storeMasked sp off data mask).mem sp').wf := by
  rw [State.storeMasked_mem]
  split
  · exact Memory.wf_combineAt (h sp) _ _ _
  · exact h sp'

/-- The shared read leaves everything but the value returned. -/
theorem State.readBack_keeps (sp : Space) (off : BitVec 17) : Frame [.readData] s (s.readBack sp off) :=
  s.respond_keeps _

@[simp] theorem State.readBack_readData (sp : Space) (off : BitVec 17) :
    (s.readBack sp off).readData = s.wordAt sp (wordIndex off) := rfl

/-- The palette store (R150): the store, and one event after it. -/
theorem State.storePalette_keeps (off : BitVec 17) (data mask : Word) :
    Frame [.mem .pal, .hist] s (s.storePalette off data mask) :=
  (s.storeMasked_keeps .pal off data mask).trans (State.emit_keeps _ _)

@[simp] theorem State.storePalette_mem (off : BitVec 17) (data mask : Word) (sp : Space) :
    (s.storePalette off data mask).mem sp = (s.storeMasked .pal off data mask).mem sp := by
  simp [State.storePalette]

theorem State.storePalette_hist (off : BitVec 17) (data mask : Word) :
    (s.storePalette off data mask).hist =
      s.hist ++ [(s.storeMasked .pal off data mask).setColorEvent (wordIndex off / 2)] := by
  simp [State.storePalette]

/-- The sound latch leaves everything but the history (R155). -/
theorem State.latchSound_keeps (data mask : Word) : Frame [.hist] s (s.latchSound data mask) := by
  unfold State.latchSound
  split
  · exact ((s.emit_keeps _).trans (State.emit_keeps _ _)).mono (by simp)
  · exact (Frame.refl s).mono (by simp)

/-- The remapped read in its four cases (R113). -/
theorem State.protRead_cases (off : Nat) :
    (∃ i, s.cfg.tableInUse.target off = some (.loop i) ∧ s.protRead off = s.respond (s.wordAt .lb i.toNat)) ∨
    (∃ p, s.cfg.tableInUse.target off = some (.input p) ∧ s.protRead off = s.readInput p) ∨
    (s.cfg.tableInUse.target off = some .yield ∧
      s.protRead off = (s.holdHost.emit .yield).respond s.cfg.yieldValue) ∨
    (s.cfg.tableInUse.target off = none ∧
      s.protRead off = (s.emit (.unmappedRead off)).respond 0x0000#16) := by
  unfold State.protRead
  cases h : s.cfg.tableInUse.target off with
  | none => exact .inr (.inr (.inr ⟨rfl, rfl⟩))
  | some t =>
    cases t with
    | loop i => exact .inl ⟨i, rfl, rfl⟩
    | input p => exact .inr (.inl ⟨p, rfl, rfl⟩)
    | yield => exact .inr (.inr (.inl ⟨rfl, rfl⟩))

/-- The remapped read never touches a buffer, the configuration or the requests. -/
@[simp] theorem State.protRead_mem (off : Nat) (sp : Space) : (s.protRead off).mem sp = s.mem sp := by
  rcases s.protRead_cases off with ⟨_, _, h⟩ | ⟨_, _, h⟩ | ⟨_, h⟩ | ⟨_, h⟩ <;> simp [h]

@[simp] theorem State.protRead_cfg (off : Nat) : (s.protRead off).cfg = s.cfg := by
  rcases s.protRead_cases off with ⟨_, _, h⟩ | ⟨_, _, h⟩ | ⟨_, h⟩ | ⟨_, h⟩ <;> simp [h]

@[simp] theorem State.protRead_reqs (off : Nat) : (s.protRead off).reqs = s.reqs := by
  rcases s.protRead_cases off with ⟨_, _, h⟩ | ⟨_, _, h⟩ | ⟨_, h⟩ | ⟨_, h⟩ <;> simp [h]

/-- Patching has its three answers (R120, R121). -/
theorem execPatch_cases :
    (s.cfg.bootleg = false ∧ execPatch s = .next s) ∨
    (s.cfg.bootleg = true ∧ s.cfg.patch.idempotent = true ∧ execPatch s = .next s.patchImage) ∨
    (s.cfg.bootleg = true ∧ s.cfg.patch.idempotent = false ∧ execPatch s = .refused .badPatchConfig) := by
  unfold execPatch
  cases s.cfg.bootleg <;> cases s.cfg.patch.idempotent <;> simp

/-- What one step can do: nothing, with no request to take, or execute the request it takes. -/
theorem step_cases {s t : State} (h : step s = .next t) :
    (nextRequest s.suspend s.reqs = none ∧ t = s) ∨
    ∃ r rest i, nextRequest s.suspend s.reqs = some (r, rest) ∧ decode s.cfg r = .instr i ∧
      exec i (s.setReqs rest) = .next t := by
  unfold step at h
  split at h
  · cases h
    exact .inl ⟨by assumption, rfl⟩
  · split at h
    · cases h
    · exact .inr ⟨_, _, _, by assumption, by assumption, h⟩

end Sys2Proof.Machine
end

