-- ==== Sys2Proof/Laws/Params.lean ====
section
/-! SUPPORT. Laws of the read tables (R113, R114, R118): which table is in use, and what a table maps an offset to. -/

namespace Sys2Proof

/-- The table in use (R118). -/
theorem Config.tableInUse_eq (c : Config) :
    c.tableInUse = if c.bootleg = true ∨ c.readTable = .cninja then c.readmapCninja else c.readmapEdrandy := by
  unfold Config.tableInUse
  cases c.bootleg <;> cases c.readTable <;> simp

/-- An entry of a table without a repeated key is what the table maps its offset to. -/
theorem ReadMap.target_of_mem {m : ReadMap} (hn : (m.map Prod.fst).Nodup) {off : Nat} {t : Target} (h : (off, t) ∈ m) :
    m.target off = some t := by
  induction m with
  | nil => cases h
  | cons e rest ih =>
    obtain ⟨k, u⟩ := e
    rw [List.map_cons, List.nodup_cons] at hn
    rcases List.mem_cons.1 h with h | h
    · cases h
      simp [ReadMap.target]
    · have hk : k ≠ off := fun e => hn.1 (List.mem_map.2 ⟨_, h, e.symm⟩)
      rw [ReadMap.target, if_neg hk]
      exact ih hn.2 h

/-- An offset without an entry is mapped to nothing. -/
theorem ReadMap.target_eq_none {m : ReadMap} {off : Nat} (h : ∀ t, (off, t) ∉ m) : m.target off = none := by
  induction m with
  | nil => rfl
  | cons e rest ih =>
    obtain ⟨k, u⟩ := e
    have hk : k ≠ off := fun e => h u (by simp [e])
    rw [ReadMap.target, if_neg hk]
    exact ih fun t ht => h t (List.mem_cons_of_mem _ ht)

end Sys2Proof
end

