-- ==== Sys2Proof/Laws/Patch.lean ====
section
/-! SUPPORT. Laws of the bootleg patch's operations (R120): what a match is, what blanking five words does,
and what the scan does. -/

namespace Sys2Proof.Machine

/-- A match (R120): an opcode pattern at the index and a compare pattern four words before, both in the image. -/
theorem patchMatches_iff {p : PatchParams} {img : List Word} {i : Nat} :
    patchMatches p img i = true ↔
      ∃ o c, img[i]? = some o ∧ img[i - 4]? = some c ∧ p.ops.contains o = true ∧ p.cmps.contains c = true := by
  unfold patchMatches
  cases img[i]? <;> cases img[i - 4]? <;> simp

/-- The scan's test is the match of R120 at the word indices of the region. -/
theorem patchMatch_iff {p : PatchParams} {img : List Word} {i : Nat} :
    PatchMatch p img i ↔ p.lo + 4 ≤ i ∧ i ≤ p.hi ∧ patchMatches p img i = true := by
  rw [patchMatches_iff]
  simp only [PatchMatch, List.contains_iff_mem]
  constructor
  · rintro ⟨hl, hh, ⟨o, ho, hm⟩, c, hc, hn⟩
    exact ⟨hl, hh, o, c, ho, hc, hm, hn⟩
  · rintro ⟨hl, hh, o, c, ho, hc, hm, hn⟩
    exact ⟨hl, hh, ⟨o, ho, hm⟩, c, hc, hn⟩

@[simp] theorem patchBlank_length (p : PatchParams) (img : List Word) (j : Nat) :
    (patchBlank p img j).length = img.length := by simp [patchBlank]

/-- Blanking (R120): the five words from j on are the no-op word, every other word is as before. -/
theorem patchBlank_getElem? (p : PatchParams) (img : List Word) (j k : Nat) :
    (patchBlank p img j)[k]? = if j ≤ k ∧ k ≤ j + 4 ∧ k < img.length then some p.nop else img[k]? := by
  unfold patchBlank
  simp only [List.getElem?_set, List.length_set]
  by_cases hk : k < img.length
  · simp only [hk, and_true]
    repeat' split
    all_goals first | rfl | omega
  · rw [List.getElem?_eq_none (by omega)]
    repeat' split
    all_goals first | rfl | omega

/-- What the scan does (R120), from word index i on with the matches `prev` already taken and the image `img` blanked there: it
takes `more` matches, all ascending, which are those of the image before that stand more than 4 words after every one taken
before them; exactly the five words of each match taken are new. -/
theorem patchScan_spec {p : PatchParams} (hcm : p.nop ∉ p.cmps) (orig : List Word) :
    ∀ (count i : Nat) (img : List Word) (prev : List Nat), 4 ≤ i → img.length = orig.length →
      (∀ k ∈ prev, k < i) → prev.Pairwise (· < ·) → (∀ k ∈ prev, k < orig.length ∧ 4 ≤ k) →
      (∀ j, ((∃ k ∈ prev, k - 4 ≤ j ∧ j ≤ k) → img[j]? = some p.nop) ∧
        ((∀ k ∈ prev, ¬ (k - 4 ≤ j ∧ j ≤ k)) → img[j]? = orig[j]?)) →
      (∀ k, k ∈ prev ↔ (p.lo + 4 ≤ k ∧ k < i ∧ patchMatches p orig k = true ∧ ∀ m ∈ prev, m < k → m + 4 < k)) →
      p.lo + 4 ≤ i →
      ∃ more : List Nat, (patchScan p count i img).2 = more.map (· - 4) ∧ (prev ++ more).Pairwise (· < ·) ∧
        (∀ j, ((∃ k ∈ prev ++ more, k - 4 ≤ j ∧ j ≤ k) → (patchScan p count i img).1[j]? = some p.nop) ∧
          ((∀ k ∈ prev ++ more, ¬ (k - 4 ≤ j ∧ j ≤ k)) → (patchScan p count i img).1[j]? = orig[j]?)) ∧
        (∀ k, k ∈ prev ++ more ↔
          (p.lo + 4 ≤ k ∧ k < i + count ∧ patchMatches p orig k = true ∧ ∀ m ∈ prev ++ more, m < k → m + 4 < k)) := by
  intro count
  induction count with
  | zero =>
    intro i img prev h4 hl h1 h2 hlen h3 h5 _
    exact ⟨[], rfl, by simpa, by simpa [patchScan] using h3, by simpa using h5⟩
  | succ n ih =>
    intro i img prev h4 hl h1 h2 hlen h3 h5 hlo
    have key : patchMatches p img i = true ↔ patchMatches p orig i = true ∧ ∀ m ∈ prev, m < i → m + 4 < i := by
      have hi : img[i]? = orig[i]? := (h3 i).2 (fun k hk => by have := h1 k hk; omega)
      by_cases hb : ∃ k ∈ prev, k - 4 ≤ i - 4 ∧ i - 4 ≤ k
      · have hn := (h3 (i-4)).1 hb
        obtain ⟨k, hk, _, hk2⟩ := hb
        constructor
        · intro hm
          obtain ⟨o, c, _, hc, _, hc2⟩ := patchMatches_iff.1 hm
          obtain rfl : p.nop = c := by simpa [hn] using hc
          exact absurd (List.contains_iff_mem.1 hc2) hcm
        · rintro ⟨_, hm⟩; have := hm k hk (h1 k hk); omega
      · have hb' : ∀ k ∈ prev, ¬ (k - 4 ≤ i - 4 ∧ i - 4 ≤ k) := fun k hk hh => hb ⟨k, hk, hh⟩
        have hn := (h3 (i-4)).2 hb'
        have : patchMatches p img i = patchMatches p orig i := by simp only [patchMatches, hi, hn]
        rw [this]
        refine ⟨fun h => ⟨h, fun m hm _ => ?_⟩, fun h => h.1⟩
        have := hb' m hm; have := h1 m hm; omega
    simp only [patchScan]
    by_cases hm : patchMatches p img i = true
    · rw [if_pos hm]
      have hil : i < orig.length := by
        obtain ⟨o, c, ho, _⟩ := patchMatches_iff.1 hm
        have := (List.getElem?_eq_some_iff.1 ho).1
        omega
      have hk := key.1 hm
      obtain ⟨more, e1, e2, e3, e4⟩ := ih (i+1) (patchBlank p img (i-4)) (prev ++ [i]) (by omega) (by simp [hl])
        (by
          intro k hk
          simp only [List.mem_append, List.mem_singleton] at hk
          rcases hk with hk | rfl
          · have := h1 k hk
            omega
          · omega)
        (by
          rw [List.pairwise_append]
          refine ⟨h2, by simp, fun a ha b hb => ?_⟩
          rw [List.mem_singleton] at hb
          exact hb ▸ h1 a ha)
        (by
          intro k hk
          simp only [List.mem_append, List.mem_singleton] at hk
          rcases hk with hk | rfl
          · exact hlen k hk
          · exact ⟨hil, h4⟩)
        (by
          intro j
          rw [patchBlank_getElem?]
          constructor
          · rintro ⟨k, hk, hk2⟩
            simp at hk
            rcases hk with hk | rfl
            · have := (hlen k hk)
              split
              · rfl
              · exact (h3 j).1 ⟨k, hk, hk2⟩
            · rw [if_pos]; omega
          · intro hno
            rw [if_neg]
            · exact (h3 j).2 (fun k hk => hno k (by simp [hk]))
            · have := hno i (by simp); omega)
        (by
          intro k
          simp only [List.mem_append, List.mem_singleton]
          constructor
          · rintro (hk1 | rfl)
            · obtain ⟨a, b, c, d⟩ := (h5 k).1 hk1
              refine ⟨a, by omega, c, ?_⟩
              rintro m (hm1 | rfl) hlt
              · exact d m hm1 hlt
              · omega
            · refine ⟨hlo, by omega, hk.1, ?_⟩
              rintro m (hm1 | rfl) hlt
              · exact hk.2 m hm1 hlt
              · omega
          · rintro ⟨a, b, c, d⟩
            by_cases hki : k = i
            · exact .inr hki
            · left; rw [h5]; exact ⟨a, by omega, c, fun m hm1 hlt => d m (.inl hm1) hlt⟩)
        (by omega)
      refine ⟨i :: more, by simp [e1], by simpa using e2, by simpa using e3, ?_⟩
      intro k; have := e4 k
      simp only [List.append_assoc, List.singleton_append] at this
      rw [this, show i + 1 + n = i + (n + 1) by omega]
    · rw [if_neg hm]
      have hk : ¬ _ := fun h => hm (key.2 h)
      obtain ⟨more, e1, e2, e3, e4⟩ := ih (i+1) img prev (by omega) hl (fun k hk => by have := h1 k hk; omega) h2 hlen h3
        (by
          intro k
          rw [h5]
          refine ⟨fun ⟨a,b,c,d⟩ => ⟨a, by omega, c, d⟩, fun ⟨a,b,c,d⟩ => ⟨a, ?_, c, d⟩⟩
          by_cases hki : k = i
          · subst hki; exact absurd ⟨c, d⟩ hk
          · omega) (by omega)
      refine ⟨more, e1, e2, e3, ?_⟩
      intro k; rw [e4 k, show i + 1 + n = i + (n + 1) by omega]

end Sys2Proof.Machine
end

