-- ==== Sys2Proof/Laws/PerInstr.lean ====
section
/-! SUPPORT. The law of every instruction as syntax, one lemma for each constructor: the encoded word of a well-formed
instruction matches the row of the opcode map (R95) that carries its mnemonic. -/

namespace Sys2Proof

/-- What the mask of R95 of a transaction keeps of a request word with an even offset: everything but the offset. -/
theorem requestWord_and_row (d : Dir) (win : BitVec 5) (off : BitVec 17) (h : offEven off = true) :
    requestWord d win off &&& 0xFFFE0001#32 = dirBit d ||| (win.setWidth 32 <<< 26) := by
  have hd : dirBit d &&& 0xFFFE0001#32 = dirBit d := by cases d <;> decide
  have hw : (win.setWidth 32 <<< 26) &&& 0xFFFE0001#32 = win.setWidth 32 <<< 26 := by
    revert win; decide
  have ho : off.setWidth 32 &&& 0xFFFE0001#32 = 0#32 := by
    apply BitVec.eq_of_getLsbD_eq
    intro i hi
    rw [BitVec.getLsbD_and, BitVec.getLsbD_setWidth]
    by_cases h0 : i = 0
    · have : off.getLsbD 0 = false := by simpa [offEven] using h
      rw [h0, this]
      rfl
    · by_cases h1 : i < 17
      · have : (0xFFFE0001#32).getLsbD i = false := by
          have key : ∀ i, i < 17 → i ≠ 0 → (0xFFFE0001#32).getLsbD i = false := by decide
          exact key i h1 h0
        rw [this, Bool.and_false]
        simp
      · rw [BitVec.getLsbD_of_ge off i (by omega)]
        simp
  have distrib : ∀ a b c m : BitVec 32, (a ||| b ||| c) &&& m = (a &&& m) ||| (b &&& m) ||| (c &&& m) := by
    intro a b c m
    rw [BitVec.and_comm, BitVec.and_or_distrib_left, BitVec.and_or_distrib_left, BitVec.and_comm m a, BitVec.and_comm m b,
      BitVec.and_comm m c]
  rw [requestWord, distrib, hd, hw, ho, BitVec.or_zero]

/-- A row whose mask leaves out more bits than the offset's: it is met after the full mask. -/
theorem matches_of_and_row {q x pattern mask : BitVec 32} (h : q &&& 0xFFFE0001#32 = x)
    (hm : 0xFFFE0001#32 &&& mask = mask) (hx : x &&& mask = pattern) : (q &&& mask == pattern) = true := by
  rw [beq_iff_eq, ← hm, ← BitVec.and_assoc, h, hx]

end Sys2Proof

namespace Sys2Proof.Laws.EncodeRow

/-- The encoded word of a well-formed instruction matches the row of its mnemonic (R95). -/
def Statement (i : Instr) : Prop :=
  ∀ c : Config, i.wellFormed c = true → ∃ row ∈ opcodeMap, row.mnemonic = i.mnemonic ∧
    row.matches (encode i).word = true

/-- The offset of a well-formed transaction is even. -/
theorem even_of_wellFormed {c : Config} {i : Instr} {t : Dir × Window} (ht : i.target = some t)
    (h : i.wellFormed c = true) : offEven i.off = true := by
  unfold Instr.wellFormed at h
  rw [ht] at h
  simp only [Bool.and_eq_true] at h
  exact h.1

theorem lbw (off : BitVec 17) (data mask : Word) : Statement (.lbw off data mask) := fun _ h =>
  ⟨⟨.LBW, 0x80000000#32, 0xFFFE0001#32⟩, by decide, rfl,
    matches_of_and_row (requestWord_and_row _ _ _ (even_of_wellFormed rfl h)) (by decide) (by decide)⟩

theorem prd (off : BitVec 17) : Statement (.prd off) := fun _ h =>
  ⟨⟨.PRD, 0x04000000#32, 0xFFFE0001#32⟩, by decide, rfl,
    matches_of_and_row (requestWord_and_row _ _ _ (even_of_wellFormed rfl h)) (by decide) (by decide)⟩

theorem plr (off : BitVec 17) : Statement (.plr off) := fun _ h =>
  ⟨⟨.PLR, 0x08000000#32, 0xFFFE0001#32⟩, by decide, rfl,
    matches_of_and_row (requestWord_and_row _ _ _ (even_of_wellFormed rfl h)) (by decide) (by decide)⟩

theorem plw (off : BitVec 17) (data mask : Word) : Statement (.plw off data mask) := fun _ h =>
  ⟨⟨.PLW, 0x88000000#32, 0xFFFE0001#32⟩, by decide, rfl,
    matches_of_and_row (requestWord_and_row _ _ _ (even_of_wellFormed rfl h)) (by decide) (by decide)⟩

theorem srr (off : BitVec 17) : Statement (.srr off) := fun _ h =>
  ⟨⟨.SRR, 0x0C000000#32, 0xFFFE0001#32⟩, by decide, rfl,
    matches_of_and_row (requestWord_and_row _ _ _ (even_of_wellFormed rfl h)) (by decide) (by decide)⟩

theorem srw (off : BitVec 17) (data mask : Word) : Statement (.srw off data mask) := fun _ h =>
  ⟨⟨.SRW, 0x8C000000#32, 0xFFFE0001#32⟩, by decide, rfl,
    matches_of_and_row (requestWord_and_row _ _ _ (even_of_wellFormed rfl h)) (by decide) (by decide)⟩

theorem tdr (L : Layer) (off : BitVec 17) : Statement (.tdr L off) := fun _ h =>
  ⟨⟨.TDR, 0x10000000#32, 0xF3FE0001#32⟩, by decide, rfl,
    matches_of_and_row (requestWord_and_row _ _ _ (even_of_wellFormed rfl h)) (by decide) (by cases L <;> decide)⟩

theorem tdw (L : Layer) (off : BitVec 17) (data mask : Word) : Statement (.tdw L off data mask) := fun _ h =>
  ⟨⟨.TDW, 0x90000000#32, 0xF3FE0001#32⟩, by decide, rfl,
    matches_of_and_row (requestWord_and_row _ _ _ (even_of_wellFormed rfl h)) (by decide) (by cases L <;> decide)⟩

theorem rsr (L : Layer) (off : BitVec 17) : Statement (.rsr L off) := fun _ h =>
  ⟨⟨.RSR, 0x20000000#32, 0xF3FE0001#32⟩, by decide, rfl,
    matches_of_and_row (requestWord_and_row _ _ _ (even_of_wellFormed rfl h)) (by decide) (by cases L <;> decide)⟩

theorem rsw (L : Layer) (off : BitVec 17) (data mask : Word) : Statement (.rsw L off data mask) := fun _ h =>
  ⟨⟨.RSW, 0xA0000000#32, 0xF3FE0001#32⟩, by decide, rfl,
    matches_of_and_row (requestWord_and_row _ _ _ (even_of_wellFormed rfl h)) (by decide) (by cases L <;> decide)⟩

theorem ctw (b : Block) (off : BitVec 17) (data mask : Word) : Statement (.ctw b off data mask) := fun _ h =>
  ⟨⟨.CTW, 0xB0000000#32, 0xFBFE0001#32⟩, by decide, rfl,
    matches_of_and_row (requestWord_and_row _ _ _ (even_of_wellFormed rfl h)) (by decide) (by cases b <;> decide)⟩

theorem dma (data mask : Word) : Statement (.dma data mask) := fun _ _ =>
  ⟨⟨.DMA, 0xB8000000#32, 0xFFFE0001#32⟩, by decide, rfl,
    matches_of_and_row (requestWord_and_row _ _ _ rfl) (by decide) (by decide)⟩

theorem slw (data mask : Word) : Statement (.slw data mask) := fun _ _ =>
  ⟨⟨.SLW, 0xBC000000#32, 0xFFFE0001#32⟩, by decide, rfl,
    matches_of_and_row (requestWord_and_row _ _ _ rfl) (by decide) (by decide)⟩

theorem render : Statement .render := fun _ _ =>
  ⟨⟨.RENDER, 0x7C000000#32, 0xFFFFFFFF#32⟩, by decide, rfl, by decide⟩

theorem irq : Statement .irq := fun _ _ =>
  ⟨⟨.IRQ, 0x7C000001#32, 0xFFFFFFFF#32⟩, by decide, rfl, by decide⟩

theorem reset : Statement .reset := fun _ _ =>
  ⟨⟨.RESET, 0x7C000002#32, 0xFFFFFFFF#32⟩, by decide, rfl, by decide⟩

theorem patch : Statement .patch := fun _ _ =>
  ⟨⟨.PATCH, 0x7C000003#32, 0xFFFFFFFF#32⟩, by decide, rfl, by decide⟩

end Sys2Proof.Laws.EncodeRow
end

