-- ==== Sys2Proof/Laws/Pixels.lean ====
section
/-! SUPPORT. Laws of the painter: one drawing over another, and the positions of a span. -/

namespace Sys2Proof.Machine

/-- A later drawing covers an earlier one exactly where it draws (R202). -/
theorem drawOver_eq_or (below above : Option Nat) : drawOver below above = above.or below := by
  cases above <;> rfl

@[simp] theorem span_length (lo hi : Nat) : (span lo hi).length = hi + 1 - lo := by simp [span]

theorem span_getElem? {lo hi i : Nat} (h : lo + i ≤ hi) : (span lo hi)[i]? = some (lo + i) := by
  have : i < hi + 1 - lo := by omega
  simp [span, this]

/-- The painter takes the passes one by one (R202). -/
theorem State.paint_append (rom : PenRom) (s : State) (passes : List Pass) (p : Pass) (sx sy : Nat) :
    s.paint rom (passes ++ [p]) sx sy = (s.passPixel rom p sx sy).or (s.paint rom passes sx sy) := by
  simp [State.paint, drawOver_eq_or]

end Sys2Proof.Machine
end

