-- ==== Sys2Proof/Laws/Queue.lean ====
section
/-! SUPPORT. Laws of the request queue and of a run: which request is taken next, and what stays. -/

namespace Sys2Proof.Machine

/-- The scheduler's first event in a queue: every request before it is the host CPU's and keeps its place. -/
theorem firstEvent_append {held rest : List Request} {e : Request} (hh : ∀ r ∈ held, fromScheduler r = false)
    (he : fromScheduler e = true) : firstEvent (held ++ e :: rest) = some (e, held ++ rest) := by
  induction held with
  | nil => simp [firstEvent, he]
  | cons r q ih => simp [firstEvent, hh r (by simp), ih (fun r hr => hh r (by simp [hr]))]

/-- A queue of host requests only has no scheduler event. -/
theorem firstEvent_host {q : List Request} (h : ∀ r ∈ q, fromScheduler r = false) : firstEvent q = none := by
  induction q with
  | nil => rfl
  | cons r q ih => simp [firstEvent, h r (by simp), ih (fun r hr => h r (by simp [hr]))]

/-- The scheduler's first event and the requests left stood in the queue. -/
theorem firstEvent_mem {q rest : List Request} {e : Request} (h : firstEvent q = some (e, rest)) :
    e ∈ q ∧ ∀ r ∈ rest, r ∈ q := by
  induction q generalizing e rest with
  | nil => cases h
  | cons r q ih =>
    unfold firstEvent at h
    split at h
    · cases h
      exact ⟨List.mem_cons_self, fun r hr => List.mem_cons_of_mem _ hr⟩
    · split at h
      · rename_i h'
        cases h
        refine ⟨List.mem_cons_of_mem _ (ih h').1, fun a ha => ?_⟩
        rcases List.mem_cons.1 ha with rfl | ha
        · exact List.mem_cons_self
        · exact List.mem_cons_of_mem _ ((ih h').2 a ha)
      · cases h

/-- The request taken next and the requests left stood in the queue. -/
theorem nextRequest_mem {suspended : Bool} {q rest : List Request} {e : Request}
    (h : nextRequest suspended q = some (e, rest)) : e ∈ q ∧ ∀ r ∈ rest, r ∈ q := by
  unfold nextRequest at h
  split at h
  · exact firstEvent_mem h
  · split at h
    · cases h
    · cases h
      exact ⟨List.mem_cons_self, fun r hr => List.mem_cons_of_mem _ hr⟩

/-- A run of no step is the state itself. -/
theorem core_run_zero (s : State) : Host.Core.run Sys2Proof.core 0 s = .next s := rfl

/-- A run whose first step answers next goes on from there. -/
theorem core_run_succ {s t : State} (n : Nat) (h : step s = .next t) :
    Host.Core.run Sys2Proof.core (n + 1) s = Host.Core.run Sys2Proof.core n t := by
  have h' : Sys2Proof.core.step s = .next t := h
  simp only [Host.Core.run, h']

end Sys2Proof.Machine
end

