-- ==== Sys2Proof/Tests/Slice0.lean ====
section
/-! SUPPORT. The model's own tests: the well-formedness smoke, words written out from the encodings of spec/30, one or two
small steps for each instruction with the results of spec/95, and a witness for the hypotheses of each obligation. -/

namespace Sys2Proof.Tests

open Sys2Proof Sys2Proof.Machine

/-! ## The fixture of spec/95 -/

/-- The open parameters of the fixture (spec/95); its patch region and its two host ranges are this file's. -/
def fixture : Config where
  readTable := .cninja
  bootleg := false
  readmapCninja := [(0x080, .loop 0#8), (0x084, .loop 1#8), (0x0C0, .loop 0x10#8), (0x0C2, .input (.dipSwitch 1))]
  readmapEdrandy := [(0x040, .loop 2#8), (0x0FE, .yield)]
  cninjaNames := []
  protRSize := 0x800
  yieldOffset := 0x0FE
  spriteMask := 0x3FFF#16
  colsplitPf3 := 32
  colsplitPf4 := 0
  patch := ⟨0, 15, [0x6600#16, 0x6700#16], [0xB07C#16, 0x0C40#16], 0x4E71#16⟩
  addrMap := [⟨0x1000, 0x200, .write, .protW, 0⟩, ⟨0x2000, 0x800, .read, .protR, 0⟩]

/-- The fixture's bootleg board. -/
def bootlegFixture : Config := { fixture with bootleg := true }

/-- The fixture's Edward Randy board. -/
def edrandyFixture : Config := { fixture with readTable := .edrandy }

/-- The reset state in a configuration. -/
def start (c : Config) : State := { State.reset with cfg := c }

/-- One word of one buffer set. -/
def put (sp : Space) (w : Nat) (v : Word) (s : State) : State := s.setMem sp ((s.mem sp).writeWord w v)

/-- Sprite entry e of the compositor's copy set. -/
def putSprite (e : Nat) (w0 w1 w2 : Word) (s : State) : State :=
  put .sprBuf (4 * e) w0 (put .sprBuf (4 * e + 1) w1 (put .sprBuf (4 * e + 2) w2 s))

/-- An outcome is a next state of which p holds. -/
def nextIs (o : Host.Outcome State Fault Refusal) (p : State → Bool) : Bool :=
  match o with
  | .next t => p t
  | .fault _ => false
  | .refused _ => false

/-- The pen oracle of the fixture: every pixel of a tile has the pen of the tile's low 4 bits. -/
def tilePens : PenRom := fun _ tile _ _ => tile.setWidth 4

/-! ## Well-formedness -/

theorem test_fixture_wellFormed : fixture.wellFormed = true := by decide

theorem test_wf_last_word : (Instr.lbw 0x1FE#17 0#16 0xFFFF#16).wellFormed fixture = true := by decide

theorem test_wf_refuses_odd_offset : (Instr.lbw 0x001#17 0#16 0xFFFF#16).wellFormed fixture = false := by decide

theorem test_wf_refuses_out_of_window : (Instr.lbw 0x200#17 0#16 0xFFFF#16).wellFormed fixture = false := by decide

theorem test_wf_refuses_odd_read : (Instr.prd 0x081#17).wellFormed fixture = false := by decide

theorem test_wf_refuses_read_out_of_window : (Instr.tdr .pf1 0x1000#17).wellFormed fixture = false := by decide

theorem test_config_refuses_odd_key :
    Config.wellFormed { fixture with readmapCninja := [(0x081, .loop 0#8)] } = false := by decide

theorem test_config_refuses_repeated_key :
    Config.wellFormed { fixture with readmapCninja := [(0x080, .loop 0#8), (0x080, .loop 1#8)] } = false := by decide

theorem test_config_refuses_cninja_yield :
    Config.wellFormed { fixture with readmapCninja := [(0x0FE, .yield)] } = false := by decide

theorem test_config_refuses_second_yield :
    Config.wellFormed { fixture with readmapEdrandy := [(0x0FE, .yield), (0x0FC, .yield)] } = false := by decide

theorem test_config_refuses_small_read_window : Config.wellFormed { fixture with protRSize := 0x0C2 } = false := by decide

theorem test_config_refuses_small_rowscroll : Config.wellFormed { fixture with rowscrollWords := 0x400 } = false := by decide

theorem test_config_refuses_many_sprites : Config.wellFormed { fixture with spriteEntries := 257 } = false := by decide

theorem test_config_refuses_equal_splits : Config.wellFormed { fixture with colsplitPf4 := 32 } = false := by decide

theorem test_config_refuses_nop_pattern :
    Config.wellFormed { fixture with patch := { fixture.patch with nop := 0x6600#16 } } = false := by decide

theorem test_config_refuses_one_opcode_pattern :
    Config.wellFormed { fixture with patch := { fixture.patch with ops := [0x6600#16] } } = false := by decide

theorem test_config_refuses_one_compare_pattern :
    Config.wellFormed { fixture with patch := { fixture.patch with cmps := [0xB07C#16] } } = false := by decide

theorem test_config_refuses_overlapping_protection_windows :
    Config.wellFormed { fixture with
      addrMap := [⟨0x1000, 0x200, .write, .protW, 0⟩, ⟨0x11FE, 2, .write, .protR, 0⟩] } = false := by decide

theorem test_config_allows_windows_at_one_address :
    Config.wellFormed { fixture with
      addrMap := [⟨0x1000, 0x200, .write, .protW, 0⟩, ⟨0x1000, 0x800, .read, .protR, 0⟩] } = true := by decide

theorem test_config_refuses_odd_run :
    Config.wellFormed { fixture with addrMap := [⟨0x1001, 0x200, .write, .protW, 0⟩] } = false ∧
    Config.wellFormed { fixture with addrMap := [⟨0x1000, 0x200, .write, .protW, 1⟩] } = false := by decide

theorem test_config_refuses_wide_window :
    Config.wellFormed { fixture with vis := { fixture.vis with x1 := 256 } } = false ∧
    Config.wellFormed { fixture with vis := { fixture.vis with y1 := 256 } } = false := by decide

theorem test_config_refuses_small_palette :
    Config.wellFormed { fixture with paletteEntries := 0x5FF } = false ∧
    Config.wellFormed { fixture with paletteEntries := 0x600 } = true ∧
    Config.wellFormed { fixture with colourShift := 8 } = false := by decide

/-- A configuration whose table holds the names of R115: the twelve at 0x100 on, and two mirrors that share one entry. -/
def named (table : List (FirmwareEntry × Nat)) : Config :=
  { fixture with
    readmapCninja := (0x0C2, .input (.dipSwitch 1)) :: (List.range 12).map (fun n => (0x100 + 2 * n, .loop 0#8))
    cninjaNames := table ++ [(.dipSwitchMirror 0, 0x0C2), (.coinCounterMirror, 0x0C2), (.playerInputMirror 0, 0x0C2)] }

theorem test_config_names :
    let all := FirmwareEntry.loopEntries.zip ((List.range 12).map (0x100 + 2 * ·))
    let shared := FirmwareEntry.loopEntries.zip ((List.range 12).map (0x100 + 2 * (· - 1)))
    (named all).namesLoopEntries = true ∧ (named all).namesInputEntries = true ∧
    (named shared).namesLoopEntries = false ∧ (named (all.drop 1)).namesLoopEntries = false := by decide

theorem test_config_names_none : fixture.namesLoopEntries = false ∧ fixture.namesInputEntries = false := by decide

/-! ## Decoding: the words of spec/30 and of spec/95 section 2.1 -/

/-- The fixture's decoder on a word with operands. -/
def dec (q : BitVec 32) (data mask : Word) : Decoded := decode fixture ⟨q, data, mask⟩

theorem test_decode_lbw : dec 0x800001FE#32 0x1234#16 0xFFFF#16 = .instr (.lbw 0x1FE#17 0x1234#16 0xFFFF#16) := by decide

theorem test_decode_prd : dec 0x04000080#32 0#16 0#16 = .instr (.prd 0x080#17) := by decide

theorem test_decode_plr : dec 0x0800000A#32 0#16 0#16 = .instr (.plr 0x00A#17) := by decide

theorem test_decode_plw : dec 0x88001FFE#32 0x8040#16 0x00FF#16 = .instr (.plw 0x1FFE#17 0x8040#16 0x00FF#16) := by decide

theorem test_decode_srr : dec 0x0C000002#32 0#16 0#16 = .instr (.srr 0x002#17) := by decide

theorem test_decode_srw : dec 0x8C0007FE#32 5#16 0xFFFF#16 = .instr (.srw 0x7FE#17 5#16 0xFFFF#16) := by decide

theorem test_decode_tdr : dec 0x1C000FFE#32 0#16 0#16 = .instr (.tdr .pf4 0xFFE#17) := by decide

theorem test_decode_tdw : dec 0x9C000FFE#32 0xF123#16 0xFFFF#16 = .instr (.tdw .pf4 0xFFE#17 0xF123#16 0xFFFF#16) := by decide

theorem test_decode_tdw_layers :
    dec 0x90000000#32 1#16 0xFFFF#16 = .instr (.tdw .pf1 0#17 1#16 0xFFFF#16) ∧
    dec 0x94000000#32 1#16 0xFFFF#16 = .instr (.tdw .pf2 0#17 1#16 0xFFFF#16) ∧
    dec 0x98000000#32 1#16 0xFFFF#16 = .instr (.tdw .pf3 0#17 1#16 0xFFFF#16) := by decide

theorem test_decode_rsr : dec 0x24000002#32 0#16 0#16 = .instr (.rsr .pf2 0x002#17) := by decide

theorem test_decode_rsw : dec 0xAC000FFE#32 7#16 0xFF00#16 = .instr (.rsw .pf4 0xFFE#17 7#16 0xFF00#16) := by decide

theorem test_decode_ctw :
    dec 0xB000000C#32 0x4000#16 0xFFFF#16 = .instr (.ctw .c0 0x0C#17 0x4000#16 0xFFFF#16) ∧
    dec 0xB400000E#32 0x0100#16 0xFFFF#16 = .instr (.ctw .c1 0x0E#17 0x0100#16 0xFFFF#16) := by decide

theorem test_decode_dma : dec 0xB8000000#32 0#16 0xFFFF#16 = .instr (.dma 0#16 0xFFFF#16) := by decide

theorem test_decode_slw : dec 0xBC000000#32 0x0142#16 0xFFFF#16 = .instr (.slw 0x0142#16 0xFFFF#16) := by decide

theorem test_decode_events :
    dec 0x7C000000#32 0#16 0#16 = .instr .render ∧ dec 0x7C000001#32 0#16 0#16 = .instr .irq ∧
    dec 0x7C000002#32 0#16 0#16 = .instr .reset ∧ dec 0x7C000003#32 0#16 0#16 = .instr .patch := by decide

theorem test_decode_refuses_reserved_bits :
    dec 0x80020000#32 0#16 0#16 = .reject .reservedBits ∧ dec 0x80020001#32 0#16 0#16 = .reject .reservedBits := by decide

theorem test_decode_refuses_reserved_window :
    dec 0x40000000#32 0#16 0#16 = .reject .reservedWindow ∧ dec 0x40000001#32 0#16 0#16 = .reject .reservedWindow ∧
    dec 0x78000000#32 0#16 0#16 = .reject .reservedWindow := by decide

theorem test_decode_refuses_reserved_event :
    dec 0x7C000004#32 0#16 0#16 = .reject .reservedEvent ∧ dec 0xFC000000#32 0#16 0#16 = .reject .reservedEvent := by decide

theorem test_decode_refuses_odd_offset : dec 0x80000001#32 0#16 0#16 = .reject .oddOffset := by decide

theorem test_decode_refuses_wrong_direction :
    dec 0x00000000#32 0#16 0#16 = .reject .wrongDirection ∧ dec 0x84000080#32 0#16 0#16 = .reject .wrongDirection ∧
    dec 0x30000000#32 0#16 0#16 = .reject .wrongDirection ∧ dec 0x34000000#32 0#16 0#16 = .reject .wrongDirection ∧
    dec 0x38000000#32 0#16 0#16 = .reject .wrongDirection ∧ dec 0x3C000000#32 0#16 0#16 = .reject .wrongDirection := by
  decide

theorem test_decode_refuses_out_of_window :
    dec 0x80000200#32 0#16 0#16 = .reject .outOfWindow ∧ dec 0xB0000010#32 0#16 0#16 = .reject .outOfWindow ∧
    dec 0xB8000002#32 0#16 0#16 = .reject .outOfWindow ∧ dec 0x88002000#32 0#16 0#16 = .reject .outOfWindow ∧
    dec 0x8C000800#32 0#16 0#16 = .reject .outOfWindow ∧ dec 0xAC001000#32 0#16 0#16 = .reject .outOfWindow := by decide

/-! ## One step of each instruction (spec/95) -/

theorem test_lbw_low_lane :
    nextIs (exec (.lbw 0x020#17 0x1234#16 0x00FF#16) (put .lb 0x10 0xABCD#16 (start fixture)))
      (fun t => t.wordAt .lb 0x10 == 0xAB34#16) = true := by decide

theorem test_lbw_bad_mask :
    exec (.lbw 0x000#17 0x1234#16 0x0F0F#16) (start fixture) = .refused .badMask := by rfl

theorem test_prd_loop :
    nextIs (exec (.prd 0x0C0#17) (put .lb 0x10 0x0055#16 (start fixture))) (fun t => t.readData == 0x0055#16) = true := by
  decide

theorem test_prd_yield :
    nextIs (exec (.prd 0x0FE#17) (start edrandyFixture))
      (fun t => t.suspend && t.readData == 0#16 && t.hist == [.yield]) = true := by decide

theorem test_plw_emits_colour :
    nextIs (exec (.plw 0x008#17 0x8040#16 0xFFFF#16) (put .pal 5 0x0033#16 (start fixture)))
      (fun t => t.wordAt .pal 4 == 0x8040#16 && t.hist == [.setColor 2 0x40#8 0x80#8 0x33#8]) = true := by decide

theorem test_plr_returns_word :
    nextIs (exec (.plr 0x00A#17) (put .pal 5 0x12C0#16 (start fixture))) (fun t => t.readData == 0x12C0#16) = true := by
  decide

theorem test_srw_leaves_buffered_copy :
    nextIs (exec (.srw 0x002#17 5#16 0xFFFF#16) (start fixture))
      (fun t => t.wordAt .sprLive 1 == 5#16 && t.wordAt .sprBuf 1 == 0#16) = true := by decide

theorem test_srr_reads_live_copy :
    nextIs (exec (.srr 0x002#17) (put .sprBuf 1 7#16 (put .sprLive 1 5#16 (start fixture))))
      (fun t => t.readData == 5#16) = true := by decide

theorem test_tdw_marks_its_cell :
    nextIs (exec (.tdw .pf4 0xFFE#17 0xF123#16 0xFFFF#16)
        { start fixture with dirty := ⟨0#2048, 0#2048, 0#2048, 0#2048⟩ })
      (fun t => t.wordAt (.td .pf4) 0x7FF == 0xF123#16 && t.isDirty .pf4 0x7FF && !t.isDirty .pf4 0x7FE &&
        !t.isDirty .pf3 0x7FF) = true := by decide +kernel

theorem test_tdr_returns_word :
    nextIs (exec (.tdr .pf4 0xFFE#17) (put (.td .pf4) 0x7FF 0xF123#16 (start fixture)))
      (fun t => t.readData == 0xF123#16) = true := by decide

theorem test_rsw_low_lane :
    nextIs (exec (.rsw .pf2 0x002#17 0x00AA#16 0x00FF#16) (put (.rs .pf2) 1 0x1111#16 (start fixture)))
      (fun t => t.wordAt (.rs .pf2) 1 == 0x11AA#16) = true := by decide

theorem test_rsr_returns_word :
    nextIs (exec (.rsr .pf2 0x002#17) (put (.rs .pf2) 1 0x11AA#16 (start fixture)))
      (fun t => t.readData == 0x11AA#16) = true := by decide

theorem test_ctw_bootleg_carry_lost :
    nextIs (exec (.ctw .c0 0x06#17 0x00FA#16 0x00FF#16) (put (.ctrl .c0) 3 0xAB00#16 (start bootlegFixture)))
      (fun t => t.wordAt (.ctrl .c0) 3 == 0xAB04#16) = true := by decide

theorem test_ctw_bootleg_wraps :
    nextIs (exec (.ctw .c1 0x02#17 0x0001#16 0xFFFF#16) (start bootlegFixture))
      (fun t => t.wordAt (.ctrl .c1) 1 == 0xFFFF#16) = true := by decide

theorem test_dma_copies_live_copy :
    nextIs (exec (.dma 0x1234#16 0xFFFF#16) (put .sprBuf 9 1#16 (put .sprLive 0 0x0264#16 (start fixture))))
      (fun t => t.wordAt .sprBuf 0 == 0x0264#16 && t.wordAt .sprBuf 9 == 0#16) = true := by decide

theorem test_slw_low_lane :
    nextIs (exec (.slw 0x0142#16 0xFFFF#16) (start fixture))
      (fun t => t.hist == [.soundLatch 0x42#8, .soundIrq .irq1]) = true := by decide

theorem test_slw_high_lane :
    nextIs (exec (.slw 0x4200#16 0xFF00#16) (start fixture)) (fun t => t.hist == []) = true := by decide

theorem test_render_counts_frames :
    nextIs (exec .render (putSprite 0 0x00E8#16 5#16 0x06F0#16 (start fixture)))
      (fun t => t.frame == 1 && t.usedSprColours == [3#5]) = true := by decide +kernel

theorem test_irq_ends_hold :
    nextIs (exec .irq { start fixture with suspend := true }) (fun t => !t.suspend) = true := by decide

theorem test_reset_clears :
    nextIs (exec .reset { put .lb 5 0x1234#16 (start fixture) with frame := 7, suspend := true, hist := [.yield] })
      (fun t => t.wordAt .lb 5 == 0#16 && t.frame == 0 && !t.suspend && t.hist == [.yield]) = true := by decide

theorem test_patch_two_matches :
    nextIs (exec .patch { start bootlegFixture with
        img := [0, 0, 0xB07C, 1, 2, 3, 0x6600, 0, 0, 0, 0x0C40, 0, 0, 0, 0x6700, 0] })
      (fun t => t.img == [0, 0, 0x4E71, 0x4E71, 0x4E71, 0x4E71, 0x4E71, 0, 0, 0, 0x4E71, 0x4E71, 0x4E71, 0x4E71, 0x4E71, 0]
        && t.hist == [.patched 2, .patched 10]) = true := by decide

theorem test_patch_overlapping_match :
    nextIs (exec .patch { start { bootlegFixture with patch := { fixture.patch with hi := 6 } } with
        img := [0xB07C, 0, 0x0C40, 0, 0x6600, 0, 0x6700] })
      (fun t => t.img == [0x4E71, 0x4E71, 0x4E71, 0x4E71, 0x4E71, 0, 0x6700] && t.hist == [.patched 0]) = true := by decide

/-! ## The frame (spec/95 sections 2.5 to 2.7) -/

theorem test_colscroll_split :
    (put (.ctrl .c0) 6 0x0020#16 (put (.ctrl .c0) 1 7#16 (put (.ctrl .c0) 2 5#16
      (put (.rs .pf3) 0x420 32#16 (put (.rs .pf3) 0x41F 31#16 (start fixture)))))).resolveScroll .pf3 =
    ⟨1, 64, [7#16], List.replicate 32 5#16 ++ [37#16] ++ List.replicate 31 5#16⟩ := by decide +kernel

theorem test_rowscroll_wins_and_wraps :
    (put (.ctrl .c1) 6 0x0060#16 (put (.ctrl .c1) 5 7#16 (put (.ctrl .c1) 1 0xFFF0#16
      (put (.rs .pf1) 0 0x0020#16 (put (.rs .pf1) 1 0xFFFF#16 (start fixture)))))).resolveScroll .pf1 =
    ⟨2, 1, [0x0010#16, 0xFFEF#16], [0#16]⟩ := by decide +kernel

theorem test_no_colscroll_on_pf2 :
    (put (.ctrl .c0) 6 0x2000#16 (start fixture)).resolveScroll .pf2 = ⟨1, 1, [0#16], [0#16]⟩ := by decide +kernel

theorem test_banks :
    (put (.ctrl .c0) 7 0x0100#16 (start fixture)).region .pf2 = .tilesB ∧
    (put (.ctrl .c0) 7 0x0100#16 (start fixture)).region .pf3 = .tilesA ∧
    (put (.ctrl .c0) 7 0x0080#16 (start fixture)).region .pf3 = .tilesB := by decide +kernel

theorem test_tall_sprite_cells :
    (putSprite 0 0x0264#16 5#16 0x0064#16 (start fixture)).entryCells false 0 =
      [⟨5#16, 0#5, false, false, 140, 140⟩, ⟨4#16, 0#5, false, false, 140, 124⟩] := by decide +kernel

theorem test_tile_align_cells :
    ((putSprite 0 0x4264#16 5#16 0x0064#16 (start { fixture with sprTileAlign := true })).entryCells false 0).map
      Cell.tile = [4#16, 5#16] := by decide +kernel

theorem test_flash_strobe :
    (putSprite 0 0x10E8#16 7#16 0x80F0#16 (start fixture)).entryCells true 0 = [⟨7#16, 0#5, false, false, 0, 8⟩] ∧
    ({ putSprite 0 0x10E8#16 7#16 0x80F0#16 (start fixture) with frame := 1 }).entryCells true 0 = [] := by
  decide +kernel

theorem test_x_reject_boundaries :
    (putSprite 0 0x00E8#16 1#16 0x01F0#16 (start fixture)).spriteOffX 0 = false ∧
    (putSprite 0 0x00E8#16 1#16 0x01EF#16 (start fixture)).spriteOffX 0 = true ∧
    (putSprite 0 0x00E8#16 1#16 0x0100#16 (start fixture)).spriteOffX 0 = true ∧
    (putSprite 0 0x00E8#16 1#16 0x00FF#16 (start fixture)).spriteX 0 = -15 := by decide +kernel

/-- The state of vector V10, with the sprite in group `pri`, in a configuration of one sprite entry. -/
def v10 (w2 : Word) : State :=
  put (.td .pf4) 0 0x000A#16 (put (.td .pf4) 1 0x0003#16
    (putSprite 0 0x00E8#16 7#16 w2 (start { fixture with spriteEntries := 1 })))

/-- The pixel of a state over the fixture's pens. -/
def px (s : State) (sx sy : Nat) : Option Nat := s.pixel tilePens s.renderPasses s.flip sx sy

theorem test_v10_low_priority_sprite :
    [px (v10 0x00E8#16) 0 8, px (v10 0x00E8#16) 8 8, px (v10 0x00E8#16) 16 8, px (v10 0x00E8#16) 24 8,
      px (v10 0x00E8#16) 40 8] = [some 0x30A, some 0x30A, some 0x407, some 0x303, some 0x100] := by decide +kernel

theorem test_v10_high_priority_sprite :
    [px (v10 0x80E8#16) 0 8, px (v10 0x80E8#16) 8 8, px (v10 0x80E8#16) 16 8] =
      [some 0x30A, some 0x407, some 0x407] := by decide +kernel

theorem test_v6_flipped_screen : px (put (.ctrl .c1) 0 0x8000#16 (v10 0x00E8#16)) 255 247 = some 0x30A := by
  decide +kernel

theorem test_v11_layers :
    let s := put (.td .pf2) 0 0x3005#16 (put (.td .pf2) 1 1#16 (put (.td .pf1) 32 0x2009#16
      (start { fixture with spriteEntries := 1 })))
    [px s 0 8, px s 8 8, px s 16 8, px s 32 8] = [some 0x029, some 0x135, some 0x101, some 0x100] := by decide +kernel

/-- A cell at X 250 draws to the edge of the screen and not beyond it (R237), and a window wider than the screen shows the screen's
columns (R200). -/
theorem test_screen_edge :
    (⟨7#16, 0#5, false, false, 250, 8⟩ : Cell).pixel tilePens 0x400 255 8 = some 0x407 ∧
    (⟨7#16, 0#5, false, false, 250, 8⟩ : Cell).pixel tilePens 0x400 256 8 = none ∧
    ((State.bitmap (fun _ _ _ _ => 1#4) (start { fixture with vis := ⟨254, 300, 8, 8⟩ }) [] false).map List.length) = [2] := by
  decide +kernel

/-! ## The host's side and the table words -/

/-- The one-lane writes of program P1, by host address, and a word read. -/
theorem test_host_accesses :
    hostWriteByte fixture 0x1001 0xAB#8 = some ⟨0x80000000#32, 0x00AB#16, 0x00FF#16⟩ ∧
    hostWriteByte fixture 0x1002 0xCD#8 = some ⟨0x80000002#32, 0xCD00#16, 0xFF00#16⟩ ∧
    hostReadWord fixture 0x2080 = some ⟨0x04000080#32, 0#16, 0#16⟩ := by decide

/-- A host write to the read window is refused for its direction (R68), and an offset beyond 17 bits makes no request. -/
theorem test_host_refusals :
    let c := { fixture with addrMap := [⟨0x2000, 0x800, .write, .protR, 0⟩, ⟨0x4000, 4, .read, .pal, 0x1FFFE⟩] }
    (hostWriteWord c 0x2080 1#16).map (decode c) = some (.reject .wrongDirection) ∧
    hostReadWord c 0x4000 = some ⟨0x0801FFFE#32, 0#16, 0#16⟩ ∧ hostReadWord c 0x4002 = none := by decide

/-- The pseudo-instruction of program P4. -/
theorem test_setcol :
    setcol 2 0x40#8 0x80#8 0xC0#8 =
      some [.plw 0x008#17 0x8040#16 0xFFFF#16, .plw 0x00A#17 0x00C0#16 0xFFFF#16] := by decide

/-- The last entries whose offsets are 17 bits wide, and the first beyond. -/
theorem test_pseudo_bounds :
    (setcol 0x7FFF 0#8 0#8 0#8).isSome = true ∧ setcol 0x8000 0#8 0#8 0#8 = none ∧
    (sprite 0x3FFF 0#16 0#16 0#16).isSome = true ∧ sprite 0x4000 0#16 0#16 0#16 = none := by decide

/-- A table word is the next request, and the step runs it. -/
theorem test_table_word :
    decodeTableWord 32 0x80000000 = some (.lbw 0x000#17 0x0000#16 0xFFFF#16) ∧
    nextIs (step (State.reset.withFetchWord 32 0x7C000000)) (fun t => t.frame == 1 && t.reqs == []) = true := by decide

/-! ## Witnesses: for each obligation with hypotheses, states and operands that meet them together -/

theorem word_put (sp : Space) (w : Nat) (v : Word) (s : State) (sp' : Space) (w' : Nat) :
    (put sp w v s).wordAt sp' w' = if sp' = sp ∧ w' = w then v else s.wordAt sp' w' := by
  unfold put State.wordAt
  rw [State.setMem_mem]
  by_cases h : sp' = sp
  · subst h
    rw [if_pos rfl, Memory.readWord_writeWord]
    by_cases hw : w' = w <;> simp [hw]
  · simp [h]

/-- The first word and the last word of each window are well formed (EncodedInstrDecodesToItself). -/
theorem witness_encoded_instr :
    (Instr.lbw 0x000#17 1#16 0x00FF#16).wellFormed fixture = true ∧ (Instr.prd 0x7FE#17).wellFormed fixture = true ∧
    (Instr.plw 0x1FFE#17 1#16 0xFFFF#16).wellFormed fixture = true ∧ (Instr.srr 0x7FE#17).wellFormed fixture = true ∧
    (Instr.tdw .pf3 0xFFE#17 1#16 0xFFFF#16).wellFormed fixture = true ∧ (Instr.rsr .pf2 0xFFE#17).wellFormed fixture = true ∧
    (Instr.ctw .c1 0x00E#17 1#16 0xFFFF#16).wellFormed fixture = true ∧ (Instr.dma 0#16 0xFFFF#16).wellFormed fixture = true ∧
    Instr.patch.wellFormed fixture = true := by decide

/-- DecodedInstrEncodesToItsWord, a write and an event. -/
theorem witness_decoded_instr :
    decode fixture ⟨0x9C000FFE#32, 0xF123#16, 0xFF00#16⟩ = .instr (.tdw .pf4 0xFFE#17 0xF123#16 0xFF00#16) ∧
    (Instr.tdw .pf4 0xFFE#17 0xF123#16 0xFF00#16).laneMask = some 0xFF00#16 ∧
    decode fixture ⟨0x7C000003#32, 0#16, 0#16⟩ = .instr .patch := by decide

/-- OpcodeMapAndDecoderAgree: a decoded word, a matching word outside its window, a word no row matches. -/
theorem witness_opcode_map :
    decode fixture ⟨0x7C000001#32, 0#16, 0#16⟩ = .instr .irq ∧
    (∃ row ∈ opcodeMap, row.matches 0xB0000010#32 = true) ∧ decode fixture ⟨0xB0000010#32, 0#16, 0#16⟩ = .reject .outOfWindow ∧
    ∀ row ∈ opcodeMap, row.matches 0x7C000004#32 = false := by decide

theorem witness_worked_encodings :
    0x080 < fixture.protRSize ∧ fixture.ctrlWords = 8 ∧ fixture.rowscrollWords = 0x800 := by decide

/-- A queue of two host requests with an event behind them. -/
def queued : List Request :=
  [⟨0x80000000#32, 1#16, 0xFFFF#16⟩, ⟨0x04000080#32, 0#16, 0#16⟩, ⟨0x7C000001#32, 0#16, 0#16⟩]

/-- StepRunsTheFirstRequest: a request that decodes, and one that does not. -/
theorem witness_step_runs :
    ({ start fixture with reqs := queued }).suspend = false ∧
    decode fixture ⟨0x80000000#32, 1#16, 0xFFFF#16⟩ = .instr (.lbw 0#17 1#16 0xFFFF#16) ∧
    ({ start fixture with reqs := [⟨0x40000000#32, 0#16, 0#16⟩] }).suspend = false ∧
    decode fixture ⟨0x40000000#32, 0#16, 0#16⟩ = .reject .reservedWindow := by decide

/-- SuspendedHostGetsNoStep: only host requests, and host requests before an event. -/
theorem witness_suspended :
    ({ start fixture with suspend := true, reqs := queued }).suspend = true ∧
    (∀ r ∈ queued.take 2, fromScheduler r = false) ∧ queued = queued.take 2 ++ ⟨0x7C000001#32, 0#16, 0#16⟩ :: [] ∧
    fromScheduler ⟨0x7C000001#32, 0#16, 0#16⟩ = true ∧ decode fixture ⟨0x7C000001#32, 0#16, 0#16⟩ = .instr .irq := by decide

/-- LegalRequestsNeverStop: a safe state with three requests. -/
theorem witness_safe : ({ start fixture with reqs := queued }).Safe := by
  intro r hr
  simp only [queued, List.mem_cons, List.not_mem_nil, or_false] at hr
  rcases hr with rfl | rfl | rfl
  · exact ⟨.lbw 0#17 1#16 0xFFFF#16, by decide, by simp [Instr.laneMask, isLaneMask], by simp⟩
  · exact ⟨.prd 0x080#17, by decide, by simp [Instr.laneMask], by simp⟩
  · exact ⟨.irq, by decide, by simp [Instr.laneMask], by simp⟩

/-- A canonical state with its bytes inside their windows and a request to take. -/
theorem witness_canonical :
    ({ start fixture with reqs := queued }).Canonical ∧ ({ start fixture with reqs := queued }).InWindows ∧
    ∃ t, step { start fixture with reqs := queued } = .next t := by
  refine ⟨⟨fun sp => ?_, by simp [start, State.reset]⟩, ?_, ⟨_, rfl⟩⟩
  · have h : State.mem { start fixture with reqs := queued } sp = State.reset.mem sp := by cases sp <;> rfl
    rw [h, State.reset_mem]
    exact Memory.wf_blank _
  · refine ⟨by decide, ?_, ?_, ?_, by decide, by decide, by decide⟩
    · intro b; cases b <;> decide
    · intro L; cases L <;> decide
    · intro L; cases L <;> decide

/-- SuspendChangesOnlyByYieldIrqReset: the yield read, IRQ and RESET each change SUSPEND. -/
theorem witness_suspend_changes :
    (∃ t, exec (.prd 0x0FE#17) (start edrandyFixture) = .next t ∧ t.suspend ≠ (start edrandyFixture).suspend) ∧
    (∃ t, exec .irq { start fixture with suspend := true } = .next t ∧ t.suspend ≠ true) ∧
    (∃ t, exec .reset { start fixture with suspend := true } = .next t ∧ t.suspend ≠ true) :=
  ⟨⟨_, rfl, by decide⟩, ⟨_, rfl, by decide⟩, ⟨_, rfl, by decide⟩⟩

/-- The bootleg board with the image of the first row of spec/95 section 2.8. -/
def patchable : State :=
  { start bootlegFixture with img := [0, 0, 0xB07C, 1, 2, 3, 0x6600, 0, 0, 0, 0x0C40, 0, 0, 0, 0x6700, 0] }

/-- FrameCounterAndImageWriters and PatchIsIdempotent: a patch that changes the image. -/
theorem witness_image_changes : ∃ t, exec .patch patchable = .next t ∧ t.img ≠ patchable.img := ⟨_, rfl, by decide⟩

/-- BuffersHaveOneWriter: a write, the DMA and RESET each change a byte. -/
theorem witness_buffer_changes :
    (∃ t, exec (.lbw 0#17 0x1200#16 0xFFFF#16) (start fixture) = .next t ∧
      (t.mem .lb).readByte 0 ≠ ((start fixture).mem .lb).readByte 0) ∧
    (∃ t, exec (.dma 0#16 0xFFFF#16) (put .sprLive 0 0x1200#16 (start fixture)) = .next t ∧
      (t.mem .sprBuf).readByte 0 ≠ ((put .sprLive 0 0x1200#16 (start fixture)).mem .sprBuf).readByte 0) ∧
    (∃ t, exec .reset (put .pal 0 0x1200#16 (start fixture)) = .next t ∧
      (t.mem .pal).readByte 0 ≠ ((put .pal 0 0x1200#16 (start fixture)).mem .pal).readByte 0) :=
  ⟨⟨_, rfl, by decide⟩, ⟨_, rfl, by decide⟩, ⟨_, rfl, by decide⟩⟩

/-- WritesNeedALaneMask: a mask that is none, and one that is. -/
theorem witness_masks :
    (Instr.dma 0#16 0x0F0F#16).laneMask = some 0x0F0F#16 ∧ isLaneMask 0x0F0F#16 = false ∧ isLaneMask 0x0000#16 = false ∧
    (Instr.slw 0#16 0x00FF#16).laneMask = some 0x00FF#16 ∧ isLaneMask 0x00FF#16 = true := by decide

/-- StoresTouchOnlySelectedLanes: the other lane of the word, and the bytes beside the word. -/
theorem witness_store_lanes :
    storeSpace (.rsw .pf2 0x002#17 0x00AA#16 0x00FF#16) = some (.rs .pf2) ∧
    (∃ t, exec (.rsw .pf2 0x002#17 0x00AA#16 0x00FF#16) (start fixture) = .next t) ∧
    ¬ StoredByte (wordIndex 0x002#17) 0x00FF#16 1 ∧ ¬ StoredByte (wordIndex 0x002#17) 0x00FF#16 2 ∧
    StoredByte (wordIndex 0x002#17) 0x00FF#16 3 ∧ ¬ StoredByte (wordIndex 0x002#17) 0x00FF#16 4 := by
  refine ⟨by decide, ⟨_, rfl⟩, ?_, ?_, ?_, ?_⟩ <;> unfold StoredByte <;> decide

/-- The lane masks, met by every statement about a write. -/
theorem witness_lane_masks : isLaneMask 0x00FF#16 = true ∧ isLaneMask 0xFF00#16 = true ∧ isLaneMask 0xFFFF#16 = true := by
  decide

/-- LowByteWriteKeepsHighByte: an offset mapped to register 0, and the register a write at offset 0x000 reaches. -/
theorem witness_low_byte_read :
    (start fixture).cfg.tableInUse.target (0x080#17).toNat = some (.loop 0#8) ∧ (0#8).toNat = (0x000#17).toNat / 2 := by decide

/-- PrdFollowsTheReadTable and PrdUnmappedReturnsZero: an offset of each kind. -/
theorem witness_read_table :
    fixture.tableInUse.target (0x084#17).toNat = some (.loop 1#8) ∧
    fixture.tableInUse.target (0x0C2#17).toNat = some (.input (.dipSwitch 1)) ∧
    edrandyFixture.tableInUse.target (0x0FE#17).toNat = some .yield ∧
    fixture.tableInUse.target (0x0FE#17).toNat = none ∧ fixture.tableInUse.target (0x7FE#17).toNat = none := by decide

/-- YieldOnlyOnEdrandy. -/
theorem witness_yield :
    (0x0FE, Target.yield) ∈ edrandyFixture.tableInUse ∧ (∀ T, (0x080, T) ∉ edrandyFixture.tableInUse) ∧
    edrandyFixture.wellFormed = true ∧ (start edrandyFixture).suspend = false ∧
    ∃ t, exec (.prd 0x0FE#17) (start edrandyFixture) = .next t ∧ t.suspend = true :=
  ⟨by decide, fun T h => by simp [Config.tableInUse, edrandyFixture, fixture] at h, by decide, rfl, _, rfl, by decide⟩

/-- A bootleg board whose no-op word is the given one. -/
def brokenBoard (nop : Word) : State := start { bootlegFixture with patch := { fixture.patch with nop := nop } }

/-- PatchCompletesOrRefuses and PatchIsIdempotent: the three kinds of board, and a no-op word in either pattern set. -/
theorem witness_patch_boards :
    (start fixture).cfg.bootleg = false ∧ patchable.cfg.bootleg = true ∧ patchable.cfg.patch.idempotent = true ∧
    (brokenBoard 0xB07C#16).cfg.bootleg = true ∧ (brokenBoard 0xB07C#16).cfg.patch.idempotent = false ∧
    (brokenBoard 0xB07C#16).cfg.patch.nop ∈ (brokenBoard 0xB07C#16).cfg.patch.cmps ∧
    (brokenBoard 0x6600#16).cfg.patch.nop ∈ (brokenBoard 0x6600#16).cfg.patch.ops := by decide

/-- PatchLeavesNoMatch: a word that the patch changes, and an image without a match. -/
theorem witness_patch_change :
    (∃ t, exec .patch patchable = .next t ∧ t.img[6]? ≠ patchable.img[6]? ∧ t.img[7]? = patchable.img[7]?) ∧
    (start bootlegFixture).cfg.bootleg = true ∧ (∃ t, exec .patch (start bootlegFixture) = .next t) ∧
    ∀ i, ¬ PatchMatch (start bootlegFixture).cfg.patch (start bootlegFixture).img i :=
  ⟨⟨_, rfl, by decide, by decide⟩, by decide, ⟨_, rfl⟩, fun i h => by
    have e : (start bootlegFixture).img = [] := rfl
    obtain ⟨-, -, ⟨o, ho, -⟩, -⟩ := h
    simp [e] at ho⟩

/-- PatchLeavesNoMatch: both ends of the region, and words on each side of one. -/
theorem witness_patch_region :
    patchable.cfg.bootleg = true ∧ (∃ t, exec .patch patchable = .next t) ∧ patchable.cfg.patch.lo + 4 ≤ 4 ∧
    15 ≤ patchable.cfg.patch.hi ∧ patchable.cfg.patch.hi < 16 ∧
    (1 < ({ fixture.patch with lo := 2 } : PatchParams).lo) := ⟨by decide, ⟨_, rfl⟩, by decide⟩

/-- PatchBlanksTheFirstMatch: the first match, at 6. -/
theorem witness_first_match :
    patchable.cfg.bootleg = true ∧ (∃ t, exec .patch patchable = .next t) ∧
    PatchMatch patchable.cfg.patch patchable.img 6 ∧ ∀ j, j < 6 → ¬ PatchMatch patchable.cfg.patch patchable.img j := by
  refine ⟨by decide, ⟨_, rfl⟩, patchMatch_iff.2 (by decide), fun j hj h => ?_⟩
  have none_before : ∀ j, j < 6 → patchMatches patchable.cfg.patch patchable.img j = false := by decide
  exact absurd (patchMatch_iff.1 h).2.2 (by simp [none_before j hj])

/-- TdwStoresAndMarksDirty, ResetLeavesResetState: the last cell, and the policy of the default configuration. -/
theorem witness_cells : 2047 < 2048 ∧ fixture.resetPolicy = .zero := by decide

/-- BootlegCorrectionStoresTable: a full-word control write completes on both boards. -/
theorem witness_correction :
    (∃ t, exec (.ctw .c0 0x06#17 0xFFFA#16 0xFFFF#16) (start bootlegFixture) = .next t) ∧
    ∃ t, exec (.ctw .c1 0x02#17 0x0001#16 0xFFFF#16) (start fixture) = .next t := ⟨⟨_, rfl⟩, ⟨_, rfl⟩⟩

/-- SpriteWriteWaitsForDma. -/
theorem witness_sprite_write : ∃ t, exec (.srw 0x002#17 5#16 0xFFFF#16) (start fixture) = .next t := ⟨_, rfl⟩

/-- HostByteWriteReachesItsByte: the first byte and the last byte of the write window, in a configuration that meets the
constraints and in one whose run is odd. -/
theorem witness_host_bytes :
    addrDecode fixture .write 0x1000 = some (.protW, 0) ∧ addrDecode fixture .write 0x11FF = some (.protW, 0x1FF) ∧
    addrDecode fixture .write 0x1200 = none ∧ fixture.wellFormed = true ∧
    addrDecode { fixture with addrMap := [⟨0x1001, 0x200, .write, .protW, 0⟩] } .write 0x1001 = some (.protW, 0) := by decide

/-- IrqEndsTheHold: a state that is not held. -/
theorem witness_not_held : (start fixture).suspend = false := rfl

/-- FlipAndBankFields and the sprite statements: the fixture has the default layouts, and a layer in each slot. -/
theorem witness_layouts :
    (start fixture).cfg.control = {} ∧ (start fixture).cfg.sprite = {} ∧ (start fixture).cfg.sprTileAlign = false ∧
    (start fixture).slotOf .pf1 = ⟨.c1, .a⟩ ∧ (start fixture).slotOf .pf2 = ⟨.c0, .b⟩ := by decide

/-- EveryPixelIsDefined: the corners of the visible window. -/
theorem witness_window :
    fixture.vis.y0 + 0 ≤ min fixture.vis.y1 255 ∧ fixture.vis.y0 + 239 ≤ min fixture.vis.y1 255 ∧
    fixture.vis.x0 + 255 ≤ min fixture.vis.x1 255 := by decide

/-- RowCountTables: both ends of the styles, and the first style beyond. -/
theorem witness_styles : 0 < 8 ∧ 7 < 8 ∧ 8 ≤ 8 := by decide

/-- RowCountTables and RowscrollAddsRowDeltas: pf2 in rowscroll mode, and its last row. -/
theorem witness_rowscroll :
    (put (.ctrl .c0) 6 0x4000#16 (start fixture)).rowscrollOn .pf2 = true ∧
    511 < ((put (.ctrl .c0) 6 0x4000#16 (start fixture)).resolveScroll .pf2).rows := by decide +kernel

/-- ColscrollAddsColumnDeltas: pf3 and pf4 with their splits, the columns at the split, and pf2. -/
theorem witness_colscroll :
    (put (.ctrl .c0) 6 0x0020#16 (start fixture)).rowscrollOn .pf3 = false ∧
    (put (.ctrl .c0) 6 0x0020#16 (start fixture)).colscrollOn .pf3 = true ∧ fixture.colsplit .pf3 = some 32 ∧ 31 < 64 ∧
    32 < 64 ∧ 63 < 64 ∧
    (put (.ctrl .c1) 6 0x2000#16 (start fixture)).rowscrollOn .pf4 = false ∧
    (put (.ctrl .c1) 6 0x2000#16 (start fixture)).colscrollOn .pf4 = true ∧ fixture.colsplit .pf4 = some 0 ∧
    (put (.ctrl .c0) 6 0x2000#16 (start fixture)).rowscrollOn .pf2 = false ∧
    (put (.ctrl .c0) 6 0x2000#16 (start fixture)).colscrollOn .pf2 = true := by decide +kernel

/-- ScrollDependsOnOwnBuffersOnly: a state with another layer's rowscroll buffer changed, and a write to one. -/
theorem witness_own_buffers :
    (∀ w, (put (.rs .pf1) 0 5#16 (start fixture)).wordAt (.ctrl ((start fixture).slotOf .pf2).block) w =
      (start fixture).wordAt (.ctrl ((start fixture).slotOf .pf2).block) w) ∧
    (∀ w, (put (.rs .pf1) 0 5#16 (start fixture)).wordAt (.rs .pf2) w = (start fixture).wordAt (.rs .pf2) w) ∧
    (put (.rs .pf1) 0 5#16 (start fixture)).cfg = (start fixture).cfg ∧ Layer.pf2 ≠ Layer.pf1 ∧
    ∃ t, exec (.rsw .pf1 0#17 5#16 0xFFFF#16) (start fixture) = .next t := by
  refine ⟨fun w => ?_, fun w => ?_, rfl, by decide, ⟨_, rfl⟩⟩
  · rw [word_put]; simp
  · rw [word_put]; simp

/-- ScrollDependsOnOwnBuffersOnly: a layer's fields agree while a word of its block does not, and the control writes that leave
a layer: to the other block, to a word of the other slot, to the other slot's lane of the style and mode words. -/
theorem witness_own_fields :
    (let s := start fixture
     let t := put (.ctrl .c0) 3 9#16 s
     t.wordAt (.ctrl .c0) 3 ≠ s.wordAt (.ctrl .c0) 3 ∧ t.rowscrollOn .pf3 = s.rowscrollOn .pf3 ∧
     t.colscrollOn .pf3 = s.colscrollOn .pf3 ∧ t.style .pf3 = s.style .pf3 ∧ t.scrollX .pf3 = s.scrollX .pf3 ∧
     t.scrollY .pf3 = s.scrollY .pf3) ∧
    ((start fixture).slotOf .pf1).block ≠ Block.c0 ∧ ((start fixture).slotOf .pf3).slot = .a ∧
    (0x06#17).toNat / 2 ∉ [1, 2, 5, 6] ∧ (0x0A#17).toNat / 2 ∈ [5, 6] ∧ (0x0C#17).toNat / 2 ∈ [5, 6] ∧
    ((start fixture).slotOf .pf2).slot = .b ∧ (0x02#17).toNat / 2 ∉ [3, 4, 5, 6] ∧
    (nextIs (exec (.ctw .c0 0x0A#17 0x0700#16 0xFF00#16) (start fixture)) (fun _ => true) = true) ∧
    (nextIs (exec (.ctw .c0 0x0C#17 0x0040#16 0x00FF#16) (start fixture)) (fun _ => true) = true) := by decide +kernel

/-- FlipMirrorsTheScreen: a write that sets the flag, and the corners of the screen. -/
theorem witness_flip :
    (start fixture).cfg.control = {} ∧
    (∃ t, exec (.ctw .c1 0x00#17 0x8000#16 0xFFFF#16) (start fixture) = .next t ∧ t.flip ≠ (start fixture).flip) ∧
    0 ≤ 255 ∧ 255 ≤ 255 := ⟨by decide, ⟨_, rfl, by decide⟩, by decide⟩

/-- TallSpritesStackCells: an entry of eight cells that is drawn, and its last cell. -/
theorem witness_tall_sprite :
    (putSprite 0 0x06E8#16 3#16 0x00F0#16 (start fixture)).spriteSkipped false 0 = false ∧
    7 < (putSprite 0 0x06E8#16 3#16 0x00F0#16 (start fixture)).spriteHeight 0 ∧
    (let s := putSprite 0 0x4264#16 5#16 0x0064#16 (start { fixture with sprTileAlign := true })
     s.spriteSkipped false 0 = false ∧ s.cfg.sprTileAlign = true ∧ 1 < s.spriteHeight 0) := by decide +kernel

/-- ZeroTileEntryIsInvisible: two states that differ in the words of entry 1, absent in both. -/
theorem witness_zero_tile :
    let s := start fixture
    let t := putSprite 1 0x0264#16 0x4000#16 0xFE64#16 s
    s.cfg.sprite = {} ∧ t.cfg = s.cfg ∧ t.frame = s.frame ∧ (∀ w, w / 4 ≠ 1 → t.wordAt .sprBuf w = s.wordAt .sprBuf w) ∧
    s.spriteTile 1 = 0#16 ∧ t.spriteTile 1 = 0#16 ∧ t.wordAt .sprBuf 6 ≠ s.wordAt .sprBuf 6 := by
  refine ⟨by decide, rfl, rfl, fun w hw => ?_, by decide, by decide, by decide⟩
  unfold putSprite
  rw [word_put, word_put, word_put, if_neg (by omega), if_neg (by omega), if_neg (by omega)]

/-- FlippedDrawCallIsMirror: a position a cell covers. -/
theorem witness_covered : (⟨7#16, 0#5, false, true, 8, 8⟩ : Cell).covers 23 8 = true ∧ 23 ≤ 255 ∧ 8 ≤ 255 := by decide

/-- A layer pass of the fixture. -/
def somePass (k : ScrollCfg) : LayerPass := ⟨.pf3, 16, k, .tilesA, 0x200, .transparent⟩

/-- PixelValues: a pixel in the last row of a rowscroll pass, one in the last column of a colscroll pass, the last map cell, the
last pixel a cell covers on the screen, and positions it does not draw. -/
theorem witness_pixels :
    (let p := somePass ⟨2, 1, [0#16, 5#16], [1#16]⟩
     p.cfg.cols = 1 ∧ p.cfg.ys[0]? = some 1#16 ∧ 256 = (255 + (1#16).toNat) % (32 * p.tileSize) ∧
     p.cfg.xs[256 * p.cfg.rows / (32 * p.tileSize)]? = some 5#16 ∧ 260 = (255 + (5#16).toNat) % (64 * p.tileSize)) ∧
    (let p := somePass ⟨1, 64, [0x3FF#16], List.replicate 64 2#16⟩
     p.cfg.cols ≠ 1 ∧ p.cfg.xs[0]? = some 0x3FF#16 ∧ 0x3FF = (0 + (0x3FF#16).toNat) % (64 * p.tileSize) ∧
     p.cfg.ys[0x3FF / p.tileSize]? = some 2#16 ∧ 2 = (0 + (2#16).toNat) % (32 * p.tileSize)) ∧
    63 < 64 ∧ 31 < 32 ∧
    (let c : Cell := ⟨7#16, 0#5, true, false, 240, 240⟩
     255 ≤ 255 ∧ 15 < 16 ∧ c.x + ((15 : Nat) : Int) = ((255 : Nat) : Int) ∧ c.y + ((15 : Nat) : Int) = ((255 : Nat) : Int)) ∧
    255 < 256 := by decide

/-- PixelValues: a position on the screen that a cell does not cover. -/
theorem witness_uncovered :
    let c : Cell := ⟨7#16, 0#5, true, false, 240, 240⟩
    ∀ i j : Nat, i < 16 → j < 16 → ¬ (c.x + i = (239 : Nat) ∧ c.y + j = (240 : Nat)) := by
  intro c i j hi hj h
  have hx : c.x = 240 := rfl
  omega

end Sys2Proof.Tests
end

section
/-! SUPPORT. What executing an instruction can change: the parts of the state it may write, and, for each buffer, the four
ways it can come out of an instruction. The invariants of every step (10_state.md) are read off these; after them stand the
words that are read back and the fields of the control blocks. -/

namespace Sys2Proof.Machine

/-- The parts of the state an instruction may change (R140 to R156, R110 to R122, R180, R264, R290). RESET may change every
buffer and every dirty bit, and leaves the configuration, the history, the image, the requests and the value read. -/
def Instr.changes : Instr → List Part
  | .lbw _ _ _ => [.mem .lb]
  | .prd _ => [.suspend, .hist, .readData, .draws]
  | .plr _ => [.readData]
  | .plw _ _ _ => [.mem .pal, .hist]
  | .srr _ => [.readData]
  | .srw _ _ _ => [.mem .sprLive]
  | .tdr _ _ => [.readData]
  | .tdw L _ _ _ => [.mem (.td L), .dirty L]
  | .rsr _ _ => [.readData]
  | .rsw L _ _ _ => [.mem (.rs L)]
  | .ctw b _ _ _ => [.mem (.ctrl b)]
  | .dma _ _ => [.mem .sprBuf]
  | .slw _ _ => [.hist]
  | .render => [.usedSprColours, .hist, .frame]
  | .irq => [.suspend]
  | .reset =>
    [.mem .lb, .mem (.ctrl .c0), .mem (.ctrl .c1), .mem (.td .pf1), .mem (.td .pf2), .mem (.td .pf3), .mem (.td .pf4),
      .mem (.rs .pf1), .mem (.rs .pf2), .mem (.rs .pf3), .mem (.rs .pf4), .mem .pal, .mem .sprLive, .mem .sprBuf,
      .frame, .suspend, .dirty .pf1, .dirty .pf2, .dirty .pf3, .dirty .pf4, .usedSprColours, .draws]
  | .patch => [.img, .hist]

/-- The remapped read leaves everything but SUSPEND, the history, the value returned and the draw counter (R113). -/
theorem State.protRead_keeps (s : State) (off : Nat) :
    Frame [.suspend, .hist, .readData, .draws] s (s.protRead off) := by
  obtain ⟨i, -, h⟩ | ⟨p, -, h⟩ | ⟨-, h⟩ | ⟨-, h⟩ := s.protRead_cases off <;> rw [h]
  · exact (s.respond_keeps _).mono (by simp)
  · exact (s.readInput_keeps p).mono (by simp)
  · exact ((s.holdHost_keeps.trans (State.emit_keeps _ _)).trans (State.respond_keeps _ _)).mono (by simp)
  · exact ((s.emit_keeps _).trans (State.respond_keeps _ _)).mono (by simp)

/-- A device reset leaves the configuration, the history, the image, the requests and the value read (R290). -/
theorem State.resetDevice_keeps (s : State) : Frame (Instr.changes .reset) s s.resetDevice := by
  intro p hp
  cases p with
  | mem sp =>
    refine absurd ?_ hp
    cases sp with
    | ctrl b => cases b <;> simp [Instr.changes]
    | td L => cases L <;> simp [Instr.changes]
    | rs L => cases L <;> simp [Instr.changes]
    | _ => simp [Instr.changes]
  | dirty L => exact absurd (by cases L <;> simp [Instr.changes]) hp
  | frame | suspend | usedSprColours | draws => exact absurd (by simp [Instr.changes]) hp
  | cfg | hist | img | reqs | readData => simp [Part.Same]

/-- An instruction changes no part of the state but those it may change. -/
theorem exec_keeps {i : Instr} {s t : State} (h : exec i s = .next t) : Frame (Instr.changes i) s t := by
  cases i with
  | lbw | rsw | srw | ctw =>
    obtain ⟨-, rfl⟩ := guardMask_eq_next.1 h
    exact s.storeMasked_keeps _ _ _ _
  | plr | srr | tdr | rsr =>
    cases h
    exact s.readBack_keeps _ _
  | prd off =>
    cases h
    exact s.protRead_keeps _
  | plw off data mask =>
    obtain ⟨-, rfl⟩ := guardMask_eq_next.1 h
    exact s.storePalette_keeps _ _ _
  | tdw L off data mask =>
    obtain ⟨-, rfl⟩ := guardMask_eq_next.1 h
    exact (s.storeMasked_keeps _ _ _ _).trans (State.markDirty_keeps _ _ _)
  | dma data mask =>
    obtain ⟨-, rfl⟩ := guardMask_eq_next.1 h
    exact s.setMem_keeps _ _
  | slw data mask =>
    obtain ⟨-, rfl⟩ := guardMask_eq_next.1 h
    exact s.latchSound_keeps _ _
  | render =>
    cases h
    exact s.rendered_keeps
  | irq =>
    cases h
    exact s.releaseHost_keeps
  | reset =>
    cases h
    exact s.resetDevice_keeps
  | patch =>
    obtain ⟨-, he⟩ | ⟨-, -, he⟩ | ⟨-, -, he⟩ := execPatch_cases s <;> cases he.symm.trans h
    · exact (Frame.refl s).mono (by simp)
    · exact s.patchImage_keeps

/-- How a buffer can come out of an instruction: as it was; with one word combined, by the write whose buffer it is; as the
copy DMA makes; blank, after RESET. -/
inductive BufferStep (i : Instr) (s : State) (sp : Space) : Memory → Prop
  | kept : BufferStep i s sp (s.mem sp)
  | stored (data mask : Word) : storeSpace i = some sp → i.laneMask = some mask →
      BufferStep i s sp ((s.mem sp).combineAt (wordIndex i.off) data mask)
  | copied (data mask : Word) : i = .dma data mask → sp = .sprBuf → BufferStep i s sp (s.mem .sprLive)
  | blanked (f : Fill) : i = .reset → BufferStep i s sp (Memory.blank f)

theorem BufferStep.of_eq {i : Instr} {s : State} {sp : Space} {m : Memory} (h : m = s.mem sp) : BufferStep i s sp m :=
  h ▸ .kept

/-- The masked store of a write's own word: its buffer is combined, every other is kept (R140). -/
theorem BufferStep.of_storeMasked {i : Instr} (s : State) {target : Space} (sp : Space) (data : Word) {mask : Word}
    (hs : storeSpace i = some target) (hm : i.laneMask = some mask) :
    BufferStep i s sp ((s.storeMasked target i.off data mask).mem sp) := by
  rw [State.storeMasked_mem]
  split
  · next hsp =>
    subst hsp
    exact .stored data mask hs hm
  · exact .kept

/-- Every buffer comes out of an instruction in one of the four ways. -/
theorem exec_bufferStep {i : Instr} {s t : State} (h : exec i s = .next t) (sp : Space) :
    BufferStep i s sp (t.mem sp) := by
  cases i with
  | lbw | rsw | srw | ctw =>
    obtain ⟨-, rfl⟩ := guardMask_eq_next.1 h
    exact .of_storeMasked s sp _ rfl rfl
  | plw off data mask =>
    obtain ⟨-, rfl⟩ := guardMask_eq_next.1 h
    rw [State.storePalette_mem]
    exact .of_storeMasked s sp _ rfl rfl
  | tdw L off data mask =>
    obtain ⟨-, rfl⟩ := guardMask_eq_next.1 h
    rw [State.markDirty_mem]
    exact .of_storeMasked s sp _ rfl rfl
  | dma data mask =>
    obtain ⟨-, rfl⟩ := guardMask_eq_next.1 h
    rw [State.setMem_mem]
    split
    · exact .copied data mask rfl ‹_›
    · exact .kept
  | slw data mask =>
    obtain ⟨-, rfl⟩ := guardMask_eq_next.1 h
    exact .of_eq (by unfold State.latchSound; split <;> simp)
  | plr | srr | tdr | rsr =>
    cases h
    exact .of_eq (s.respond_mem _ sp)
  | prd off =>
    cases h
    exact .of_eq (s.protRead_mem _ sp)
  | render =>
    cases h
    exact .of_eq (s.rendered_mem sp)
  | irq =>
    cases h
    exact .of_eq (s.releaseHost_mem sp)
  | reset =>
    cases h
    rw [State.resetDevice_mem]
    exact .blanked _ rfl
  | patch =>
    obtain ⟨-, he⟩ | ⟨-, -, he⟩ | ⟨-, -, he⟩ := execPatch_cases s <;> cases he.symm.trans h
    · exact .kept
    · exact .of_eq (s.patchImage_mem sp)

/-- The one-writer rule of a buffer (R21, R24, R33 to R36): what changed it is RESET, its own write, or DMA for `SPR_BUF`. -/
theorem BufferStep.writer {i : Instr} {s : State} {sp : Space} {m : Memory} (h : BufferStep i s sp m)
    (hne : m ≠ s.mem sp) :
    i = .reset ∨ storeSpace i = some sp ∨ (sp = .sprBuf ∧ ∃ data mask, i = .dma data mask) := by
  cases h with
  | kept => exact absurd rfl hne
  | stored _ _ hs _ => exact .inr (.inl hs)
  | copied data mask hi hsp => exact .inr (.inr ⟨hsp, data, mask, hi⟩)
  | blanked _ hi => exact .inl hi

/-- Settles O16, by the four ways a buffer can come out of an instruction. -/
theorem buffersHaveOneWriter : Obligations.BuffersHaveOneWriter := by
  intro i s t sp a h hne
  exact (exec_bufferStep h sp).writer (fun he => hne (by rw [he]))

/-! ## The canonical form -/

/-- A buffer comes out of an instruction canonical when all were canonical before. -/
theorem BufferStep.wf {i : Instr} {s : State} {sp : Space} {m : Memory} (h : BufferStep i s sp m)
    (hs : ∀ sp, (s.mem sp).wf) : m.wf := by
  cases h with
  | kept => exact hs sp
  | stored data mask _ _ => exact Memory.wf_combineAt (hs sp) _ _ _
  | copied _ _ _ _ => exact hs .sprLive
  | blanked f _ => exact Memory.wf_blank f

/-- The palette-usage scan lists its colours in ascending order (R196). -/
theorem State.usedColours_ascending (s : State) : s.usedColours.Pairwise (fun a b => a.toNat < b.toNat) := by
  have all : ((List.range 32).map (BitVec.ofNat 5)).Pairwise (fun a b => a.toNat < b.toNat) := by decide
  exact all.filter _

/-- An instruction keeps the palette-usage set ascending: only RENDER and RESET write it. -/
theorem exec_usedSprColours_ascending {i : Instr} {s t : State} (h : exec i s = .next t)
    (hs : s.usedSprColours.Pairwise (fun a b => a.toNat < b.toNat)) :
    t.usedSprColours.Pairwise (fun a b => a.toNat < b.toNat) := by
  cases i
  case render =>
    cases h
    exact s.usedColours_ascending
  case reset =>
    cases h
    exact List.Pairwise.nil
  all_goals
    have kept : t.usedSprColours = s.usedSprColours := exec_keeps h .usedSprColours (by simp [Instr.changes])
    rwa [kept]

/-- Every instruction keeps the canonical form. -/
theorem exec_canonical {i : Instr} {s t : State} (hs : s.Canonical) (h : exec i s = .next t) : t.Canonical :=
  ⟨fun sp => (exec_bufferStep h sp).wf hs.1, exec_usedSprColours_ascending h hs.2⟩

/-- Taking a request keeps the canonical form. -/
theorem State.setReqs_canonical {s : State} (hs : s.Canonical) (q : List Request) : (s.setReqs q).Canonical := by
  simpa [State.Canonical] using hs

/-- Settles O9: a step that takes no request leaves the state, any other executes one instruction. -/
theorem stepKeepsCanonicalForm : Obligations.StepKeepsCanonicalForm := by
  intro s t hs h
  obtain ⟨-, rfl⟩ | ⟨r, rest, i, -, -, hx⟩ := step_cases h
  · exact hs
  · exact exec_canonical (State.setReqs_canonical hs rest) hx

/-! ## The history, SUSPEND, FRAME and the program image -/

/-- The remapped read appends at most one event (R113, R116, R117). -/
theorem State.protRead_hist (s : State) (off : Nat) : ∃ events, (s.protRead off).hist = s.hist ++ events := by
  obtain ⟨i, -, h⟩ | ⟨p, -, h⟩ | ⟨-, h⟩ | ⟨-, h⟩ := s.protRead_cases off <;> rw [h]
  · exact ⟨[], by simp⟩
  · exact ⟨[], by simp⟩
  · exact ⟨[.yield], by simp⟩
  · exact ⟨[.unmappedRead off], by simp⟩

/-- The sound latch appends its two events, or none (R155). -/
theorem State.latchSound_hist (s : State) (data mask : Word) :
    ∃ events, (s.latchSound data mask).hist = s.hist ++ events := by
  unfold State.latchSound
  split
  · exact ⟨[.soundLatch (loLane data), .soundIrq s.cfg.soundLine], by simp⟩
  · exact ⟨[], by simp⟩

/-- An instruction only appends to the history: the five that emit events append them, every other leaves it. -/
theorem exec_hist {i : Instr} {s t : State} (h : exec i s = .next t) : ∃ events, t.hist = s.hist ++ events := by
  cases i
  case prd off =>
    cases h
    exact s.protRead_hist _
  case plw off data mask =>
    obtain ⟨-, rfl⟩ := guardMask_eq_next.1 h
    exact ⟨_, s.storePalette_hist _ _ _⟩
  case slw data mask =>
    obtain ⟨-, rfl⟩ := guardMask_eq_next.1 h
    exact s.latchSound_hist _ _
  case render =>
    cases h
    exact ⟨_, s.rendered_hist⟩
  case patch =>
    obtain ⟨-, he⟩ | ⟨-, -, he⟩ | ⟨-, -, he⟩ := execPatch_cases s <;> cases he.symm.trans h
    · exact ⟨[], by simp⟩
    · exact ⟨_, s.patchImage_hist⟩
  all_goals
    have kept : t.hist = s.hist := exec_keeps h .hist (by simp [Instr.changes])
    exact ⟨[], by simp [kept]⟩

/-- Settles O13: a step that takes no request leaves the history, and every instruction only appends to it. -/
theorem historyOnlyGrows : Obligations.HistoryOnlyGrows := by
  intro s t h
  obtain ⟨-, rfl⟩ | ⟨r, rest, i, -, -, hx⟩ := step_cases h
  · exact ⟨[], by simp⟩
  · exact exec_hist (s := s.setReqs rest) hx

/-- A remapped read that changes SUSPEND is a yield read, and it sets it (R117). -/
theorem State.protRead_suspend {s : State} {off : Nat} (hne : (s.protRead off).suspend ≠ s.suspend) :
    (s.protRead off).suspend = true ∧ s.cfg.tableInUse.target off = some .yield := by
  obtain ⟨i, -, h⟩ | ⟨p, -, h⟩ | ⟨hy, h⟩ | ⟨-, h⟩ := s.protRead_cases off <;> rw [h] at hne ⊢
  · exact absurd (s.respond_suspend _) hne
  · exact absurd (s.readInput_suspend p) hne
  · exact ⟨by simp, hy⟩
  · exact absurd (by simp) hne

/-- Settles O14: SUSPEND is among the parts that PRD, IRQ and RESET alone may change. -/
theorem suspendChangesOnlyByYieldIrqReset : Obligations.SuspendChangesOnlyByYieldIrqReset := by
  intro i s t h hne
  cases i
  case prd off =>
    cases h
    obtain ⟨hset, hy⟩ := State.protRead_suspend hne
    exact .inl ⟨hset, off, rfl, hy⟩
  case irq =>
    cases h
    exact .inr ⟨s.releaseHost_suspend, .inl rfl⟩
  case reset =>
    cases h
    exact .inr ⟨s.resetDevice_suspend, .inr rfl⟩
  all_goals exact absurd (exec_keeps h .suspend (by simp [Instr.changes])) hne

/-- FRAME after an instruction (R37, R199, R290). -/
theorem exec_frame {i : Instr} {s t : State} (h : exec i s = .next t) :
    t.frame = if i = .render then s.frame + 1 else if i = .reset then s.cfg.frame0 else s.frame := by
  cases i
  case render =>
    cases h
    exact s.rendered_frame
  case reset =>
    cases h
    exact s.resetDevice_frame
  all_goals
    have kept : t.frame = s.frame := exec_keeps h .frame (by simp [Instr.changes])
    simpa using kept

/-- An instruction that changes the program image is PATCH on a bootleg board (R120, R305). -/
theorem exec_img {i : Instr} {s t : State} (h : exec i s = .next t) (hne : t.img ≠ s.img) :
    i = .patch ∧ s.cfg.bootleg = true := by
  cases i
  case patch =>
    obtain ⟨-, he⟩ | ⟨hb, -, -⟩ | ⟨hb, -, -⟩ := execPatch_cases s
    · cases he.symm.trans h
      exact absurd rfl hne
    · exact ⟨rfl, hb⟩
    · exact ⟨rfl, hb⟩
  all_goals exact absurd (exec_keeps h .img (by simp [Instr.changes])) hne

/-- Settles O15, by the two writers' own statements. -/
theorem frameCounterAndImageWriters : Obligations.FrameCounterAndImageWriters :=
  fun _ _ _ h => ⟨exec_frame h, exec_img h⟩

/-! ## The state after reset -/

/-- No memory of the reset state lists a byte. -/
theorem State.reset_cells (sp : Space) : (State.reset.mem sp).cells = [] := by
  rw [State.reset_mem]
  rfl

/-- The state after reset is canonical (R42). -/
theorem State.reset_canonical : State.reset.Canonical := by
  refine ⟨fun sp => ?_, List.Pairwise.nil⟩
  rw [State.reset_mem]
  exact Memory.wf_blank _

/-- A state whose memories list no byte lists none outside a window. -/
theorem State.inWindows_of_cells_eq_nil {s : State} (h : ∀ sp, (s.mem sp).cells = []) : s.InWindows := by
  have none_listed (sp : Space) (n : Nat) : ∀ p ∈ (s.mem sp).cells, p.1 < n := by simp [h sp]
  exact ⟨none_listed .lb _, fun b => none_listed (.ctrl b) _, fun L => none_listed (.td L) _,
    fun L => none_listed (.rs L) _, none_listed .pal _, none_listed .sprLive _, none_listed .sprBuf _⟩

/-- Every word reads zero after reset (R42, R290 with `RESET_POLICY = ZERO`). -/
theorem State.reset_allWordsZero : State.reset.AllWordsZero := by
  intro sp w
  rw [State.wordAt, State.reset_mem, Memory.readWord_blank_zero]

/-- Settles O10: after reset every memory is blank over zero. -/
theorem resetStateIsCanonical : Obligations.ResetStateIsCanonical :=
  ⟨State.reset_canonical, State.inWindows_of_cells_eq_nil State.reset_cells, State.reset_allWordsZero⟩

/-! ## A word written whole is read back -/

/-- The full mask is a lane mask (R65). -/
theorem isLaneMask_word : isLaneMask 0xFFFF#16 = true := by decide

/-- A word stored under the full mask is the word stored (R30, R140). -/
theorem State.storeMasked_word (s : State) (sp : Space) (off : BitVec 17) (data : Word) :
    (s.storeMasked sp off data 0xFFFF#16).wordAt sp (wordIndex off) = data := by
  rw [State.storeMasked_wordAt, if_pos ⟨rfl, rfl⟩, combine_word]

/-- The shared read returns a word stored whole, from any state whose buffer is as the store left it. -/
theorem State.readBack_of_stored {s t : State} {sp : Space} {off : BitVec 17} {data : Word}
    (ht : t.mem sp = (s.storeMasked sp off data 0xFFFF#16).mem sp) : (t.readBack sp off).readData = data := by
  rw [State.readBack_readData, State.wordAt, ht]
  exact s.storeMasked_word sp off data

/-- Outside the bootleg variant a control write combines its data uncorrected (R145). -/
theorem ctrlValue_of_not_bootleg {c : Config} (hc : c.bootleg = false) (b : Block) (off : BitVec 17) (data : Word) :
    ctrlValue c b off data = data := by
  simp [ctrlValue, hc]

/-- Settles O32: each write leaves its buffer as the masked store does, and the matching read returns the word stored. -/
theorem ramReadsBackLastWrite : Obligations.RamReadsBackLastWrite := by
  intro s L b off data
  have completes (t : State) := guardMask_of_lane isLaneMask_word t
  refine ⟨⟨_, _, completes _, rfl, ?_⟩, ⟨_, _, completes _, rfl, ?_⟩, ⟨_, _, completes _, rfl, ?_⟩,
    ⟨_, _, completes _, rfl, ?_⟩, fun hb => ⟨_, completes _, ?_⟩⟩
  · exact State.readBack_of_stored (State.markDirty_mem _ _ _ _)
  · exact State.readBack_of_stored rfl
  · exact State.readBack_of_stored (s.storePalette_mem _ _ _ _)
  · exact State.readBack_of_stored rfl
  · rw [ctrlValue_of_not_bootleg hb]
    exact s.storeMasked_word _ off data

/-! ## The flip flag, the bank fields and the control fields of a layer -/

/-- A word masked by one bit is nonzero exactly where it has the bit. -/
theorem and_twoPow_ne_zero (v : Word) (k : Nat) (hk : k < 16) :
    ((v &&& BitVec.twoPow 16 k) != 0#16) = v.getLsbD k := by
  rw [BitVec.and_twoPow]
  cases v.getLsbD k with
  | false => simp
  | true =>
    have nonzero : BitVec.twoPow 16 k ≠ 0#16 := by
      intro h
      have bit := congrArg (BitVec.getLsbD · k) h
      simp [hk] at bit
    simpa using nonzero

/-- FLIP is bit 15 of control_1's word 0 (R27). -/
theorem State.flip_eq (s : State) : s.flip = (s.wordAt (.ctrl .c1) 0).getLsbD 15 :=
  and_twoPow_ne_zero _ 15 (by decide)

/-- `BANK_SEL` of the default layout selects `TILES_B` for every sub-field but 0 (R29, D16). -/
theorem bankSelects_default (b : BitVec 8) : ({} : ControlLayout).bankSelects b = (b != 0#8) := by
  have below : b.toNat < 256 := b.isLt
  simp only [ControlLayout.bankSelects, BitVec.getLsbD_shiftLeft, BitVec.getLsbD_allOnes]
  by_cases hb : b = 0#8
  · simp [hb]
  · have positive : b.toNat ≠ 0 := fun h => hb (BitVec.eq_of_toNat_eq h)
    have not_lt_one : ¬ b.toNat < 1 := by omega
    have pred_lt : b.toNat - 1 < 256 := by omega
    simp [hb, below, not_lt_one, pred_lt]

/-- pf2's region in the default layout: by the high byte of control_0's word 7 (R29, R182). -/
theorem State.region_pf2 {s : State} (hd : s.cfg.control = {}) :
    s.region .pf2 = if hiLane (s.wordAt (.ctrl .c0) 7) = 0#8 then .tilesA else .tilesB := by
  simp only [State.region, State.bankPf2, hd, bankSelects_default, bne_iff_ne, ite_not]
  rfl

/-- pf3's region in the default layout: by the low byte of control_0's word 7 (R29, R182). -/
theorem State.region_pf3 {s : State} (hd : s.cfg.control = {}) :
    s.region .pf3 = if loLane (s.wordAt (.ctrl .c0) 7) = 0#8 then .tilesA else .tilesB := by
  simp only [State.region, State.bankPf3, hd, bankSelects_default, bne_iff_ne, ite_not]
  rfl

/-- The slots of the layers in the default layout (R25, D15). -/
theorem State.slotOf_default {s : State} (hd : s.cfg.control = {}) (L : Layer) :
    s.slotOf L = ({} : ControlLayout).slots.get L := by
  rw [State.slotOf, hd]

/-- The control words of a layer are those of its slot's block (R25, R28). -/
theorem State.layerCtrl_of_slotOf {s : State} {L : Layer} {b : Block} {sl : Slot} (h : s.slotOf L = ⟨b, sl⟩) (w : Nat) :
    s.layerCtrl L w = s.wordAt (.ctrl b) w := by
  rw [State.layerCtrl, h]

section DefaultLayout

variable {s : State} {L : Layer} {b : Block}

/-- The fields of a layer in slot A of the default layout (R28, D11 to D16). -/
theorem State.slotA_fields (hd : s.cfg.control = {}) (h : s.slotOf L = ⟨b, .a⟩) :
    s.rowscrollOn L = (s.wordAt (.ctrl b) 6).getLsbD 6 ∧ s.colscrollOn L = (s.wordAt (.ctrl b) 6).getLsbD 5 ∧
      (s.style L).toNat = (s.wordAt (.ctrl b) 5).toNat % 8 ∧
      s.scrollX L = s.wordAt (.ctrl b) 1 ∧ s.scrollY L = s.wordAt (.ctrl b) 2 := by
  simp only [State.rowscrollOn, State.colscrollOn, State.style, State.scrollX, State.scrollY,
    State.layerCtrl_of_slotOf h, h, hd, ControlLayout.rsMask, ControlLayout.csMask, ControlLayout.styleLsb,
    ControlLayout.scrollXWord, ControlLayout.scrollYWord, and_true]
  exact ⟨and_twoPow_ne_zero _ 6 (by decide), and_twoPow_ne_zero _ 5 (by decide), by simp⟩

/-- The fields of a layer in slot B of the default layout (R28, D11 to D16). -/
theorem State.slotB_fields (hd : s.cfg.control = {}) (h : s.slotOf L = ⟨b, .b⟩) :
    s.rowscrollOn L = (s.wordAt (.ctrl b) 6).getLsbD 14 ∧ s.colscrollOn L = (s.wordAt (.ctrl b) 6).getLsbD 13 ∧
      (s.style L).toNat = (s.wordAt (.ctrl b) 5).toNat / 256 % 8 ∧
      s.scrollX L = s.wordAt (.ctrl b) 3 ∧ s.scrollY L = s.wordAt (.ctrl b) 4 := by
  simp only [State.rowscrollOn, State.colscrollOn, State.style, State.scrollX, State.scrollY,
    State.layerCtrl_of_slotOf h, h, hd, ControlLayout.rsMask, ControlLayout.csMask, ControlLayout.styleLsb,
    ControlLayout.scrollXWord, ControlLayout.scrollYWord, and_true]
  exact ⟨and_twoPow_ne_zero _ 14 (by decide), and_twoPow_ne_zero _ 13 (by decide),
    by simp [Nat.shiftRight_eq_div_pow]⟩

end DefaultLayout

/-- Settles O44: the flag, the regions, the slots of the default layout, and the fields of a layer in either slot. -/
theorem flipAndBankFields : Obligations.FlipAndBankFields := by
  intro s
  exact ⟨s.flip_eq, fun hd => ⟨State.region_pf2 hd, State.region_pf3 hd⟩, rfl, rfl,
    fun hd => ⟨State.slotOf_default hd .pf3, State.slotOf_default hd .pf2, State.slotOf_default hd .pf1,
      State.slotOf_default hd .pf4, fun L b => ⟨State.slotA_fields hd, State.slotB_fields hd⟩⟩⟩

end Sys2Proof.Machine
end

section
/-! SUPPORT. The requests of the memory windows (20_memory.md): what a decoded request is, what a write does under its lane
mask, which bytes it stores, and that every stored byte stays inside its window. -/

namespace Sys2Proof

/-! ## What the decoder lets through -/

/-- The instruction of an event code is a host event (R92). -/
theorem eventOf_target (code : BitVec 17) : (eventOf code).target = none := by
  unfold eventOf
  repeat' split
  all_goals rfl

/-- The transaction of a direction its window has is one of that direction and window (R95). -/
theorem transactionOf_target {w : Window} {d : Dir} (hd : w.allows d = true) (off : BitVec 17) (data mask : Word) :
    (transactionOf w d off data mask).target = some (d, w) := by
  cases w with
  | pal | spr | td | rsb => cases d <;> rfl
  | protR =>
    cases d with
    | read => rfl
    | write => cases hd
  | protW | ctrl | dma | sound =>
    cases d with
    | read => cases hd
    | write => rfl

/-- The one even offset of a one-word window is 0 (R60, R66). -/
theorem off_eq_zero_of_even {off : BitVec 17} (he : offEven off = true) (h : off.toNat < 2) : off = 0#17 := by
  have even : off.toNat % 2 = 0 := by simpa [offEven, BitVec.getLsbD, Nat.testBit_zero] using he
  apply BitVec.eq_of_toNat_eq
  rw [BitVec.toNat_ofNat]
  omega

/-- The transaction of an even offset inside its window has that offset (R93). -/
theorem transactionOf_off {c : Config} {w : Window} {off : BitVec 17} (he : offEven off = true)
    (hs : off.toNat < w.size c) (d : Dir) (data mask : Word) : (transactionOf w d off data mask).off = off := by
  cases w with
  | dma | sound =>
    have zero : off = 0#17 := off_eq_zero_of_even he hs
    cases d <;> exact zero.symm
  | protW | protR | pal | spr | td | rsb | ctrl => cases d <;> rfl

/-- The transaction of an even offset inside a window that has its direction is well formed (R66, R67). -/
theorem transactionOf_wellFormed {c : Config} {w : Window} {d : Dir} {off : BitVec 17} (hd : w.allows d = true)
    (he : offEven off = true) (hs : off.toNat < w.size c) (data mask : Word) :
    (transactionOf w d off data mask).wellFormed c = true := by
  simp [Instr.wellFormed, transactionOf_target hd, transactionOf_off he hs, he, hs]

/-- The decoder's last three checks let only a well-formed transaction through (R66 to R68). -/
theorem decodeTransaction_wellFormed {c : Config} {w : Window} {r : Request} {i : Instr}
    (h : decodeTransaction c w r = .instr i) : i.wellFormed c = true := by
  unfold decodeTransaction at h
  split at h
  · cases h
  · next he =>
    split at h
    · cases h
    · next hd =>
      split at h
      · cases h
      · next hs =>
        cases h
        exact transactionOf_wellFormed (by simpa using hd) (by simpa using he) (by omega) _ _

/-- Every decoded request is well formed (R94). -/
theorem decode_wellFormed {c : Config} {r : Request} {i : Instr} (h : decode c r = .instr i) :
    i.wellFormed c = true := by
  unfold decode at h
  split at h
  · cases h
  · split at h
    · split at h
      · cases h
      · cases h
        simp [Instr.wellFormed, eventOf_target]
    · split at h
      · cases h
      · exact decodeTransaction_wellFormed h

/-- The offset of a well-formed transaction lies below the size of its window (R67). -/
theorem Instr.off_lt_of_wellFormed {c : Config} {i : Instr} {d : Dir} {w : Window} (ht : i.target = some (d, w))
    (h : i.wellFormed c = true) : i.off.toNat < w.size c := by
  simp only [Instr.wellFormed, ht, Bool.and_eq_true, decide_eq_true_eq] at h
  exact h.2

/-! ## The window of a buffer -/

/-- The window whose words a buffer stores; the buffered sprite copy has the live copy's size (R36, R60). -/
def Space.window : Space → Window
  | .lb => .protW
  | .ctrl b => .ctrl b
  | .td L => .td L
  | .rs L => .rsb L
  | .pal => .pal
  | .sprLive => .spr
  | .sprBuf => .spr

/-- A buffer's window holds whole words (R60). -/
theorem Space.window_size_even (c : Config) (sp : Space) : sp.window.size c % 2 = 0 := by
  cases sp <;> simp only [Space.window, Window.size] <;> omega

end Sys2Proof

namespace Sys2Proof.Machine

/-- A write goes to the window of its buffer (R60, R140). -/
theorem target_of_storeSpace {i : Instr} {sp : Space} (h : storeSpace i = some sp) :
    i.target = some (.write, sp.window) := by
  cases i <;> cases h <;> rfl

/-! ## Every listed byte stays inside its window -/

/-- The bytes of a state lie in its windows when the bytes of each buffer lie in its own. -/
theorem State.inWindows_iff (s : State) :
    s.InWindows ↔ ∀ sp, ∀ p ∈ (s.mem sp).cells, p.1 < sp.window.size s.cfg := by
  constructor
  · rintro ⟨lb, ctrl, td, rs, pal, sprLive, sprBuf⟩ sp
    cases sp with
    | lb => exact lb
    | ctrl b => exact ctrl b
    | td L => exact td L
    | rs L => exact rs L
    | pal => exact pal
    | sprLive => exact sprLive
    | sprBuf => exact sprBuf
  · intro h
    exact ⟨h .lb, fun b => h (.ctrl b), fun L => h (.td L), fun L => h (.rs L), h .pal, h .sprLive, h .sprBuf⟩

/-- Both bytes of the word at an offset inside an even window lie inside it (R66, R67). -/
theorem wordIndex_bytes_lt {off : BitVec 17} {n : Nat} (hoff : off.toNat < n) (hn : n % 2 = 0) :
    hiOffset (wordIndex off) < n ∧ loOffset (wordIndex off) < n := by
  simp only [hiOffset, loOffset, wordIndex]
  omega

/-- A buffer comes out of a well-formed instruction inside its window when all buffers were inside theirs. -/
theorem BufferStep.inWindow {i : Instr} {s : State} {sp : Space} {m : Memory} (h : BufferStep i s sp m)
    (hi : i.wellFormed s.cfg = true) (hs : ∀ sp, ∀ p ∈ (s.mem sp).cells, p.1 < sp.window.size s.cfg) :
    ∀ p ∈ m.cells, p.1 < sp.window.size s.cfg := by
  cases h with
  | kept => exact hs sp
  | stored data mask hsp _ =>
    obtain ⟨hhi, hlo⟩ := wordIndex_bytes_lt (Instr.off_lt_of_wellFormed (target_of_storeSpace hsp) hi)
      (sp.window_size_even s.cfg)
    intro p hp
    obtain h | h | h := Memory.mem_combineAt hp
    · rwa [h]
    · rwa [h]
    · exact hs sp p h
  | copied _ _ _ hsp =>
    subst hsp
    exact hs .sprLive
  | blanked f _ => exact fun _ hp => absurd hp List.not_mem_nil

/-- A well-formed instruction keeps every listed byte inside its window. -/
theorem exec_inWindows {i : Instr} {s t : State} (hi : i.wellFormed s.cfg = true) (hs : s.InWindows)
    (h : exec i s = .next t) : t.InWindows := by
  have cfg_kept : t.cfg = s.cfg := exec_keeps h .cfg (by cases i <;> simp [Instr.changes])
  rw [State.inWindows_iff] at hs ⊢
  rw [cfg_kept]
  exact fun sp => (exec_bufferStep h sp).inWindow hi hs

/-- Taking a request keeps every listed byte inside its window. -/
theorem State.setReqs_inWindows {s : State} (hs : s.InWindows) (q : List Request) : (s.setReqs q).InWindows := hs

/-- Settles O11: the instruction a step executes was decoded, so it is well formed. -/
theorem stepKeepsBytesInWindows : Obligations.StepKeepsBytesInWindows := by
  intro s t hs h
  obtain ⟨-, rfl⟩ | ⟨r, rest, i, -, hd, hx⟩ := step_cases h
  · exact hs
  · exact exec_inWindows (s := s.setReqs rest) (decode_wellFormed hd) (State.setReqs_inWindows hs rest) hx

/-! ## The step of a request presented -/

/-- With the host CPU not held the first request presented is taken (R72). -/
theorem State.nextRequest_of_not_held {s : State} {r : Request} {rest : List Request} (hs : s.suspend = false)
    (hq : s.reqs = r :: rest) : nextRequest s.suspend s.reqs = some (r, rest) := by
  rw [hs, hq]
  rfl

/-- A step executes the instruction of the request it takes (R11). -/
theorem step_of_instr {s : State} {r : Request} {rest : List Request} {i : Instr}
    (hn : nextRequest s.suspend s.reqs = some (r, rest)) (hd : decode s.cfg r = .instr i) :
    step s = exec i (s.setReqs rest) := by
  simp only [step, hn, hd]

/-- A step is refused by the decoder's reason (R94, R96). -/
theorem step_of_reject {s : State} {r : Request} {rest : List Request} {e : DecodeError}
    (hn : nextRequest s.suspend s.reqs = some (r, rest)) (hd : decode s.cfg r = .reject e) :
    step s = .refused (refusalOf e) := by
  simp only [step, hn, hd]

/-- Settles O6, by the decoder's two answers. -/
theorem stepRunsTheFirstRequest : Obligations.StepRunsTheFirstRequest := by
  intro s r rest hs hq
  have taken := State.nextRequest_of_not_held hs hq
  exact ⟨fun i => step_of_instr taken, fun e => step_of_reject taken⟩

/-! ## Lane masks and the bytes they select -/

/-- Every write answers under the check of its lane mask (R65). -/
theorem exec_of_laneMask {i : Instr} {m : Word} (h : i.laneMask = some m) (s : State) :
    ∃ t, exec i s = guardMask m t := by
  cases i with
  | lbw | plw | srw | tdw | rsw | ctw | dma | slw =>
    cases h
    exact ⟨_, rfl⟩
  | prd | plr | srr | tdr | rsr | render | irq | reset | patch => cases h

/-- Settles O17: every write's answer is that of its lane-mask check. -/
theorem writesNeedALaneMask : Obligations.WritesNeedALaneMask := by
  refine ⟨isLaneMask_iff, fun i s m hm hl => ?_, fun i s m hm hl => ?_⟩
  · obtain ⟨t, h⟩ := exec_of_laneMask hm s
    rw [h, guardMask_of_not_lane hl]
  · obtain ⟨t, h⟩ := exec_of_laneMask hm s
    exact ⟨t, by rw [h, guardMask_of_lane hl]⟩

/-- A mask that does not select the high lane has none of its bits (R64). -/
theorem getLsbD_of_not_selectsHi {mask : Word} (h : selectsHi mask = false) {i : Nat} (hi : i < 8) :
    mask.getLsbD (8 + i) = false := by
  have lane_bits : ∀ i, i < 8 → (0xFF00#16).getLsbD (8 + i) = true := by decide
  have bit := congrArg (BitVec.getLsbD · (8 + i)) (bne_eq_false_iff_eq.1 h)
  simpa [lane_bits i hi] using bit

/-- A mask that does not select the low lane has none of its bits (R64). -/
theorem getLsbD_of_not_selectsLo {mask : Word} (h : selectsLo mask = false) {i : Nat} (hi : i < 8) :
    mask.getLsbD i = false := by
  have lane_bits : ∀ i, i < 8 → (0x00FF#16).getLsbD i = true := by decide
  have bit := congrArg (BitVec.getLsbD · i) (bne_eq_false_iff_eq.1 h)
  simpa [lane_bits i hi] using bit

/-- A combine keeps a high lane its mask does not select (R10, R69). -/
theorem hiLane_combine_of_not_selectsHi {mask : Word} (h : selectsHi mask = false) (old data : Word) :
    hiLane (combine old data mask) = hiLane old := by
  apply BitVec.eq_of_getLsbD_eq
  intro i hi
  simp [hiLane_getLsbD _ _ hi, combine_getLsbD, getLsbD_of_not_selectsHi h hi]

/-- A combine keeps a low lane its mask does not select (R10, R69). -/
theorem loLane_combine_of_not_selectsLo {mask : Word} (h : selectsLo mask = false) (old data : Word) :
    loLane (combine old data mask) = loLane old := by
  apply BitVec.eq_of_getLsbD_eq
  intro i hi
  simp [loLane_getLsbD _ _ hi, combine_getLsbD, getLsbD_of_not_selectsLo h hi]

/-- The combine-write keeps every byte that is not one of those its mask selects of its word (R64, R69). -/
theorem Memory.readByte_combineAt_of_not_stored {m : Memory} {w : Nat} {mask : Word} {a : Nat}
    (h : ¬ StoredByte w mask a) (data : Word) : (m.combineAt w data mask).readByte a = m.readByte a := by
  simp only [StoredByte, not_or, not_and, Bool.not_eq_true] at h
  obtain ⟨hhi, hlo⟩ := h
  rw [Memory.readByte_combineAt]
  split
  · next ha => rw [hiLane_combine_of_not_selectsHi (hhi ha), Memory.hiLane_readWord, ha]
  · split
    · next ha => rw [loLane_combine_of_not_selectsLo (hlo ha), Memory.loLane_readWord, ha]
    · rfl

/-- A buffer comes out of a write of a word with every byte kept but those the mask selects in the write's own buffer. -/
theorem BufferStep.readByte_of_not_stored {i : Instr} {s : State} {sp target : Space} {m : Memory} {mask : Word}
    {a : Nat} (h : BufferStep i s sp m) (hs : storeSpace i = some target) (hm : i.laneMask = some mask)
    (ha : ¬ (sp = target ∧ StoredByte (wordIndex i.off) mask a)) : m.readByte a = (s.mem sp).readByte a := by
  cases h with
  | kept => rfl
  | stored data mask' hs' hm' =>
    obtain rfl : sp = target := Option.some.inj (hs'.symm.trans hs)
    obtain rfl : mask' = mask := Option.some.inj (hm'.symm.trans hm)
    exact Memory.readByte_combineAt_of_not_stored (fun hst => ha ⟨rfl, hst⟩) data
  | copied _ _ hi _ =>
    subst hi
    cases hs
  | blanked _ hi =>
    subst hi
    cases hs

/-- Settles O18: of the four ways a buffer comes out of an instruction, a write of a word has two. -/
theorem storesTouchOnlySelectedLanes : Obligations.StoresTouchOnlySelectedLanes := by
  intro i s t target m hs hm h sp a ha
  exact (exec_bufferStep h sp).readByte_of_not_stored hs hm ha

/-! ## A host byte write -/

/-- A combine-write under the high lane's mask stores that lane's byte and no other (R64). -/
theorem Memory.readByte_combineAt_high (m : Memory) (w : Nat) (data : Word) (k : Nat) :
    (m.combineAt w data 0xFF00#16).readByte k = if k = hiOffset w then hiLane data else m.readByte k := by
  rw [Memory.readByte_combineAt, hiLane_combine_high, loLane_combine_high, Memory.loLane_readWord]
  split
  · rfl
  · split
    · next hk => rw [hk]
    · rfl

/-- A combine-write under the low lane's mask stores that lane's byte and no other (R64). -/
theorem Memory.readByte_combineAt_low (m : Memory) (w : Nat) (data : Word) (k : Nat) :
    (m.combineAt w data 0x00FF#16).readByte k = if k = loOffset w then loLane data else m.readByte k := by
  rw [Memory.readByte_combineAt, hiLane_combine_low, loLane_combine_low, Memory.hiLane_readWord]
  split
  · next hk =>
    have not_low : k ≠ loOffset w := by
      simp only [hiOffset, loOffset] at *
      omega
    rw [if_neg not_low, hk]
  · rfl

/-- A host address decodes by a run of the map that holds it (R61). -/
theorem addrDecode_run {c : Config} {d : Dir} {a off : Nat} {w : Window} (h : addrDecode c d a = some (w, off)) :
    ∃ r ∈ c.addrMap, r.window = w ∧ r.base ≤ a ∧ off = r.first + (a - r.base) := by
  unfold addrDecode at h
  split at h
  · next r hr =>
    cases h
    have holds := List.find?_some hr
    simp only [inRange, decide_eq_true_eq] at holds
    exact ⟨r, List.mem_of_find?_eq_some hr, rfl, holds.2.1, rfl⟩
  · cases h

/-- Where every run is even, a byte offset has the parity of its host address (R64, log entry 30). -/
theorem addrDecode_parity {c : Config} {d : Dir} {a off : Nat} {w : Window} (hc : c.addrEven = true)
    (h : addrDecode c d a = some (w, off)) : off % 2 = a % 2 := by
  obtain ⟨r, hr, -, hbase, rfl⟩ := addrDecode_run h
  have even := List.all_eq_true.1 hc r hr
  simp only [Bool.and_eq_true, beq_iff_eq] at even
  omega

/-- A configuration that meets the constraints has even runs (log entry 30). -/
theorem addrEven_of_wellFormed {c : Config} (h : c.wellFormed = true) : c.addrEven = true := by
  simp only [Config.wellFormed, Bool.and_eq_true] at h
  obtain ⟨⟨⟨-, even⟩, -⟩, -⟩ := h
  exact even

/-- A byte offset that fits the 17-bit `OFF` is the target's offset (R90). -/
theorem hostTarget_of_addrDecode {c : Config} {d : Dir} {a off : Nat} {w : Window}
    (h : addrDecode c d a = some (w, off)) (hoff : off < 2 ^ 17) :
    hostTarget c d a = some (w, BitVec.ofNat 17 off) := by
  simp only [hostTarget, h, if_pos hoff]

/-- The request of a byte write at an even host address is for the high lane (R64, R66). -/
theorem hostWriteByte_of_even {c : Config} {a : Nat} {w : Window} {off : BitVec 17}
    (h : hostTarget c .write a = some (w, off)) (ha : a % 2 = 0) (v : Byte) :
    hostWriteByte c a v = some (writeRequest w (evenOffset off) (ofLanes v 0#8) 0xFF00#16) := by
  simp only [hostWriteByte, h, if_pos ha, highLaneWrite]

/-- The request of a byte write at an odd host address is for the low lane (R64, R66). -/
theorem hostWriteByte_of_odd {c : Config} {a : Nat} {w : Window} {off : BitVec 17}
    (h : hostTarget c .write a = some (w, off)) (ha : ¬ a % 2 = 0) (v : Byte) :
    hostWriteByte c a v = some (writeRequest w (evenOffset off) (ofLanes 0#8 v) 0x00FF#16) := by
  simp only [hostWriteByte, h, if_neg ha, lowLaneWrite]

/-- The word at the even offset of a byte offset is the one the byte offset lies in (R66). -/
theorem wordIndex_evenOffset {off : Nat} (h : off < 2 ^ 17) :
    wordIndex (evenOffset (BitVec.ofNat 17 off)) = off / 2 := by
  rw [wordIndex, evenOffset_toNat, BitVec.toNat_ofNat, Nat.mod_eq_of_lt h]
  omega

/-- A write request at an even offset of the protection write window decodes to the register write of R110. -/
theorem decode_writeRequest_evenOffset (c : Config) {off : BitVec 17} (h : off.toNat < 0x200) (data mask : Word) :
    decode c (writeRequest .protW (evenOffset off) data mask) = .instr (.lbw (evenOffset off) data mask) := by
  have below : (evenOffset off).toNat < Window.protW.size c := by
    rw [evenOffset_toNat]
    simp only [Window.size]
    omega
  exact decode_writeRequest data mask (offEven_evenOffset off) rfl below

/-- The loopback file after a register write that completes (R110). -/
theorem exec_lbw {mask : Word} (h : isLaneMask mask = true) (off : BitVec 17) (data : Word) (s : State) :
    ∃ t, exec (.lbw off data mask) s = .next t ∧ t.mem .lb = (s.mem .lb).combineAt (wordIndex off) data mask :=
  ⟨_, guardMask_of_lane h _, rfl⟩

/-- Settles O40: the lane of the host address is stored to the word the byte offset lies in, and even runs make that byte the
one at the offset. -/
theorem hostByteWriteReachesItsByte : Obligations.HostByteWriteReachesItsByte := by
  intro s a off v hdec hoff
  have fits : off < 2 ^ 17 := by omega
  have below : (BitVec.ofNat 17 off).toNat < 0x200 := by
    rw [BitVec.toNat_ofNat, Nat.mod_eq_of_lt fits]
    exact hoff
  have target := hostTarget_of_addrDecode hdec fits
  refine ⟨?_, fun hc => ?_⟩
  · by_cases ha : a % 2 = 0
    · obtain ⟨t, hx, hmem⟩ := exec_lbw (mask := 0xFF00#16) rfl (evenOffset (BitVec.ofNat 17 off)) (ofLanes v 0#8) s
      refine ⟨_, _, t, hostWriteByte_of_even target ha v, decode_writeRequest_evenOffset _ below _ _, hx, fun k => ?_⟩
      have byte : off - off % 2 + a % 2 = hiOffset (off / 2) := by
        simp only [hiOffset]
        omega
      rw [hmem, Memory.readByte_combineAt_high, wordIndex_evenOffset fits, hiLane_ofLanes, byte]
    · obtain ⟨t, hx, hmem⟩ := exec_lbw (mask := 0x00FF#16) rfl (evenOffset (BitVec.ofNat 17 off)) (ofLanes 0#8 v) s
      refine ⟨_, _, t, hostWriteByte_of_odd target ha v, decode_writeRequest_evenOffset _ below _ _, hx, fun k => ?_⟩
      have byte : off - off % 2 + a % 2 = loOffset (off / 2) := by
        simp only [loOffset]
        omega
      rw [hmem, Memory.readByte_combineAt_low, wordIndex_evenOffset fits, loLane_ofLanes, byte]
  · have parity := addrDecode_parity (addrEven_of_wellFormed hc) hdec
    omega

end Sys2Proof.Machine
end

section
/-! SUPPORT. The request word against the instruction (30_encoding.md): what the decoder answers in each region of R94, the
encoded word of a transaction and of a host event, and the rows of the opcode map read by the fields of the word. -/

namespace Sys2Proof

/-! ## The encoder -/

/-- The encoded word of a transaction carries its direction, its window and its offset (R90, R95). -/
theorem encode_word_of_target {i : Instr} {d : Dir} {w : Window} (ht : i.target = some (d, w)) :
    (encode i).word = requestWord d w.id i.off := by
  cases i <;> cases ht <;> rfl

/-- A transaction has a direction its window has (R68). -/
theorem allows_of_target {i : Instr} {d : Dir} {w : Window} (ht : i.target = some (d, w)) : w.allows d = true := by
  cases i <;> cases ht <;> rfl

/-- A transaction is the one of its direction, its window and what its encoding carries (R93, R95). -/
theorem transactionOf_encode {i : Instr} {d : Dir} {w : Window} (ht : i.target = some (d, w)) :
    transactionOf w d i.off (encode i).data (encode i).mask = i := by
  cases i <;> cases ht <;> rfl

/-- A write carries its operands as they are (R90, R97). -/
theorem operands_transactionOf {w : Window} {d : Dir} {off : BitVec 17} {data mask m : Word}
    (hm : (transactionOf w d off data mask).laneMask = some m) :
    m = mask ∧ (encode (transactionOf w d off data mask)).data = data ∧
      (encode (transactionOf w d off data mask)).mask = mask := by
  cases w with
  | protR => cases hm
  | protW | ctrl | dma | sound =>
    cases hm
    exact ⟨rfl, rfl, rfl⟩
  | pal | spr | td | rsb =>
    cases d with
    | read => cases hm
    | write =>
      cases hm
      exact ⟨rfl, rfl, rfl⟩

/-- A host event is the one of an event code of R92, and its request carries that code. -/
theorem encode_of_event {i : Instr} (ht : i.target = none) :
    ∃ code : BitVec 17, code.toNat ≤ 3 ∧ encode i = eventRequest code ∧ eventOf code = i := by
  cases i with
  | render => exact ⟨0#17, by decide, rfl, rfl⟩
  | irq => exact ⟨1#17, by decide, rfl, rfl⟩
  | reset => exact ⟨2#17, by decide, rfl, rfl⟩
  | patch => exact ⟨3#17, by decide, rfl, rfl⟩
  | _ => cases ht

/-- An event code of R92 is one of four. -/
theorem eventCode_cases {code : BitVec 17} (h : code.toNat ≤ 3) :
    code = 0#17 ∨ code = 1#17 ∨ code = 2#17 ∨ code = 3#17 := by
  bv_omega

/-- The encoding of an event code's event carries that code (R92). -/
theorem encode_eventOf {code : BitVec 17} (h : code.toNat ≤ 3) : encode (eventOf code) = eventRequest code := by
  obtain rfl | rfl | rfl | rfl := eventCode_cases h <;> rfl

/-- A host event carries no operands (R97). -/
theorem eventOf_laneMask (code : BitVec 17) : (eventOf code).laneMask = none := by
  unfold eventOf
  repeat' split
  all_goals rfl

/-! ## The decoder, region by region of R94 -/

/-- With `RSV` not 0 nothing else of the word counts. -/
theorem decode_of_reservedBits (c : Config) {r : Request} (h : rsvField r.word ≠ 0#9) :
    decode c r = .reject .reservedBits :=
  if_pos h

/-- With the window id of host events, direction and code decide. -/
theorem decode_of_eventWin (c : Config) {r : Request} (h : rsvField r.word = 0#9) (hw : winField r.word = eventWin) :
    decode c r = if dirField r.word = .write ∨ 3 < (offField r.word).toNat then .reject .reservedEvent
      else .instr (eventOf (offField r.word)) := by
  rw [decode, if_neg (not_not_intro h), if_pos hw]

/-- No other id without a window has a meaning. -/
theorem decode_of_noWindow (c : Config) {r : Request} (h : rsvField r.word = 0#9) (hw : winField r.word ≠ eventWin)
    (hn : Window.ofId (winField r.word) = none) : decode c r = .reject .reservedWindow := by
  rw [decode, if_neg (not_not_intro h), if_neg hw, hn]

/-- The id of a window is not that of host events (R91). -/
theorem winField_ne_eventWin {n : BitVec 5} {w : Window} (hw : Window.ofId n = some w) : n ≠ eventWin := by
  rw [← Window.id_of_ofId hw]
  exact Window.id_ne_eventWin w

/-- With the id of a window, the last three checks decide. -/
theorem decode_of_window (c : Config) {r : Request} {w : Window} (h : rsvField r.word = 0#9)
    (hw : Window.ofId (winField r.word) = some w) : decode c r = decodeTransaction c w r := by
  rw [decode, if_neg (not_not_intro h), if_neg (winField_ne_eventWin hw), hw]

/-- A transaction the decoder lets through has an even offset inside a window that has its direction (R66 to R68). -/
theorem decodeTransaction_instr_cases {c : Config} {w : Window} {r : Request} {i : Instr}
    (h : decodeTransaction c w r = .instr i) :
    offEven (offField r.word) = true ∧ w.allows (dirField r.word) = true ∧ (offField r.word).toNat < w.size c ∧
      i = transactionOf w (dirField r.word) (offField r.word) r.data r.mask := by
  unfold decodeTransaction at h
  split at h
  · cases h
  · next he =>
    split at h
    · cases h
    · next hd =>
      split at h
      · cases h
      · next hs =>
        cases h
        exact ⟨by simpa using he, by simpa using hd, by omega, rfl⟩

/-- A host event the decoder lets through has direction `read` and one of the four codes of R92. -/
theorem eventCode_of_not_reserved {d : Dir} {n : Nat} (h : ¬ (d = .write ∨ 3 < n)) : d = .read ∧ n ≤ 3 := by
  cases d with
  | read => simpa using h
  | write => exact absurd (.inl rfl) h

/-- What a decoded request is: a host event of one of the four codes, or the transaction of an even offset inside a window
that has the direction (R94). -/
theorem decode_instr_cases {c : Config} {r : Request} {i : Instr} (h : decode c r = .instr i) :
    rsvField r.word = 0#9 ∧
    ((winField r.word = eventWin ∧ dirField r.word = .read ∧ (offField r.word).toNat ≤ 3 ∧
        i = eventOf (offField r.word)) ∨
     ∃ w, Window.ofId (winField r.word) = some w ∧ offEven (offField r.word) = true ∧
        w.allows (dirField r.word) = true ∧ (offField r.word).toNat < w.size c ∧
        i = transactionOf w (dirField r.word) (offField r.word) r.data r.mask) := by
  by_cases hr : rsvField r.word = 0#9
  · refine ⟨hr, ?_⟩
    by_cases hw : winField r.word = eventWin
    · rw [decode_of_eventWin c hr hw] at h
      split at h
      · cases h
      · next hc =>
        cases h
        obtain ⟨hd, hc⟩ := eventCode_of_not_reserved hc
        exact .inl ⟨hw, hd, hc, rfl⟩
    · cases hn : Window.ofId (winField r.word) with
      | none =>
        rw [decode_of_noWindow c hr hw hn] at h
        cases h
      | some w =>
        rw [decode_of_window c hr hn] at h
        exact .inr ⟨w, rfl, decodeTransaction_instr_cases h⟩
  · rw [decode_of_reservedBits c hr] at h
    cases h

/-- A host event's request decodes to the event (R92). -/
theorem decode_eventRequest (c : Config) {code : BitVec 17} (h : code.toNat ≤ 3) :
    decode c (eventRequest code) = .instr (eventOf code) := by
  have hcode : ¬ 3 < code.toNat := by omega
  simp [decode, eventRequest, hcode]

/-- The encoding of a well-formed transaction decodes to it (R90 to R95). -/
theorem decode_encode_of_target {c : Config} {i : Instr} {d : Dir} {w : Window} (ht : i.target = some (d, w))
    (hi : i.wellFormed c = true) : decode c (encode i) = .instr i := by
  have even : offEven i.off = true := Laws.EncodeRow.even_of_wellFormed ht hi
  have inside : ¬ w.size c ≤ i.off.toNat := by
    have := Instr.off_lt_of_wellFormed ht hi
    omega
  calc decode c (encode i)
      = decode c ⟨requestWord d w.id i.off, (encode i).data, (encode i).mask⟩ := by rw [← encode_word_of_target ht]
    _ = .instr (transactionOf w d i.off (encode i).data (encode i).mask) := by
        simp [Machine.decode_requestWord, even, allows_of_target ht, inside]
    _ = .instr i := by rw [transactionOf_encode ht]

/-- Settles O1: a transaction by its target, a host event by its code. -/
theorem encodedInstrDecodesToItself : Obligations.EncodedInstrDecodesToItself := by
  intro c i hi
  cases ht : i.target with
  | some t => exact decode_encode_of_target ht hi
  | none =>
    obtain ⟨code, hcode, henc, rfl⟩ := encode_of_event ht
    rw [henc]
    exact decode_eventRequest c hcode

/-- Settles O2: a word with `RSV` 0 is the request word of its fields, and the instruction carries those fields. -/
theorem decodedInstrEncodesToItsWord : Obligations.DecodedInstrEncodesToItsWord := by
  intro c r i h
  refine ⟨decode_wellFormed h, ?_⟩
  obtain ⟨hr, ⟨hw, hd, hc, rfl⟩ | ⟨w, hw, he, hd, hs, rfl⟩⟩ := decode_instr_cases h
  · constructor
    · calc (encode (eventOf (offField r.word))).word
          = requestWord .read eventWin (offField r.word) := by rw [encode_eventOf hc, eventRequest]
        _ = r.word := by rw [← hd, ← hw, requestWord_fields _ hr]
    · intro m hm
      rw [eventOf_laneMask] at hm
      cases hm
  · constructor
    · rw [encode_word_of_target (transactionOf_target hd _ _ _), transactionOf_off he hs, Window.id_of_ofId hw,
        requestWord_fields _ hr]
    · exact fun m hm => operands_transactionOf hm

/-! ## The worked encodings -/

/-- Settles O5: each transaction by the check of its offset against its window's size, the rest by running the decoder. -/
theorem workedEncodings : Obligations.WorkedEncodings := by
  intro c hprot hctrl hrows
  have ctrl (b : Block) : (Window.ctrl b).size c = 16 := by rw [Window.size, hctrl]
  have rsb (L : Layer) : (Window.rsb L).size c = 0x1000 := by rw [Window.size, hrows]
  refine ⟨rfl, ?_, ?_, ?_, rfl, ?_, rfl, rfl, rfl, rfl, rfl, rfl, rfl⟩
  · exact Machine.decode_readRequest (w := .protR) (off := 0x080#17) rfl rfl hprot
  · exact Machine.decode_writeRequest (w := .ctrl .c0) (off := 0x0C#17) _ _ rfl rfl (by rw [ctrl]; decide)
  · exact Machine.decode_writeRequest (w := .ctrl .c1) (off := 0x02#17) _ _ rfl rfl (by rw [ctrl]; decide)
  · exact Machine.decode_readRequest (w := .rsb .pf2) (off := 0x0002#17) rfl rfl (by rw [rsb]; decide)

/-! ## The refusals in order -/

/-- A window id is the id of its window, and no other (R91). -/
theorem Window.ofId_eq_some_iff {n : BitVec 5} {w : Window} : Window.ofId n = some w ↔ w.id = n := by
  constructor
  · exact Window.id_of_ofId
  · rintro rfl
    exact Window.ofId_id w

/-- The ids without a window are those from 0x10 on (R91). -/
theorem Window.ofId_eq_none_iff (n : BitVec 5) : Window.ofId n = none ↔ 0x10 ≤ n.toNat := by
  revert n
  decide

/-- The ids of the windows lie below 0x10 (R91). -/
theorem Window.toNat_lt_of_ofId {n : BitVec 5} {w : Window} (h : Window.ofId n = some w) : n.toNat < 0x10 := by
  by_contra hn
  rw [(Window.ofId_eq_none_iff n).mpr (by omega)] at h
  cases h

/-- The window id of host events as a number (R91). -/
theorem toNat_eq_iff_eventWin (n : BitVec 5) : n.toNat = 0x1F ↔ n = eventWin := by
  revert n
  decide

/-- An odd offset as a number (R66). -/
theorem offEven_eq_false_iff (off : BitVec 17) : offEven off = false ↔ off.toNat % 2 = 1 := by
  simp [offEven, BitVec.getLsbD, Nat.testBit_zero]

/-- An even offset as a number (R66). -/
theorem offEven_iff (off : BitVec 17) : offEven off = true ↔ off.toNat % 2 = 0 := by
  simp [offEven, BitVec.getLsbD, Nat.testBit_zero]

/-- The directions the windows do not have, by their ids (R60, R68). -/
theorem Window.allows_id_eq_false_iff (w : Window) (d : Dir) :
    w.allows d = false ↔
      (d = .read ∧ w.id.toNat ∈ [0x00, 0x0C, 0x0D, 0x0E, 0x0F]) ∨ (d = .write ∧ w.id.toNat = 0x01) := by
  cases w with
  | td L | rsb L => cases L <;> cases d <;> decide
  | ctrl b => cases b <;> cases d <;> decide
  | _ => cases d <;> decide

/-- The windows of R60 with their ids and byte sizes. -/
theorem Window.ofId_iff_mem_sizes (c : Config) (n : BitVec 5) (w : Window) :
    Window.ofId n = some w ↔ (n.toNat, w, w.size c) ∈
      [(0x00, .protW, 0x200), (0x01, .protR, c.protRSize), (0x02, .pal, 4 * c.paletteEntries),
       (0x03, .spr, 8 * c.spriteEntries), (0x04, .td .pf1, 0x1000), (0x05, .td .pf2, 0x1000), (0x06, .td .pf3, 0x1000),
       (0x07, .td .pf4, 0x1000), (0x08, .rsb .pf1, 2 * c.rowscrollWords), (0x09, .rsb .pf2, 2 * c.rowscrollWords),
       (0x0A, .rsb .pf3, 2 * c.rowscrollWords), (0x0B, .rsb .pf4, 2 * c.rowscrollWords),
       (0x0C, .ctrl .c0, 2 * c.ctrlWords), (0x0D, .ctrl .c1, 2 * c.ctrlWords), (0x0E, .dma, 2), (0x0F, .sound, 2)] := by
  have toNat_id : w.id = n ↔ n.toNat = w.id.toNat := by rw [BitVec.toNat_eq, eq_comm]
  rw [Window.ofId_eq_some_iff, toNat_id]
  cases w with
  | td L | rsb L => cases L <;> simp [Window.id, Window.size, Layer.num]
  | ctrl b => cases b <;> simp [Window.id, Window.size, Block.num]
  | _ => simp [Window.id, Window.size]

/-- The check of R94 that fails with each refusal, with every check before it passed: the refusals by the numbers of R60,
R67, R68 and R92. -/
def DecodeError.AppliesTo (c : Config) (q : BitVec 32) : DecodeError → Prop
  | .reservedBits => rsvField q ≠ 0#9
  | .reservedEvent => rsvField q = 0#9 ∧ (winField q).toNat = 0x1F ∧ (dirField q = .write ∨ 3 < (offField q).toNat)
  | .reservedWindow => rsvField q = 0#9 ∧ 0x10 ≤ (winField q).toNat ∧ (winField q).toNat ≤ 0x1E
  | .oddOffset => rsvField q = 0#9 ∧ (winField q).toNat < 0x10 ∧ (offField q).toNat % 2 = 1
  | .wrongDirection => rsvField q = 0#9 ∧ (winField q).toNat < 0x10 ∧ (offField q).toNat % 2 = 0 ∧
      ((dirField q = .read ∧ (winField q).toNat ∈ [0x00, 0x0C, 0x0D, 0x0E, 0x0F]) ∨
        (dirField q = .write ∧ (winField q).toNat = 0x01))
  | .outOfWindow => ∃ w, rsvField q = 0#9 ∧ Window.ofId (winField q) = some w ∧ (offField q).toNat % 2 = 0 ∧
      w.allows (dirField q) = true ∧ w.size c ≤ (offField q).toNat

/-- With the window id of host events, the refusal of a host event is the only one. -/
theorem decode_reject_iff_of_eventWin (c : Config) {r : Request} (hr : rsvField r.word = 0#9)
    (hw : winField r.word = eventWin) (e : DecodeError) : decode c r = .reject e ↔ e.AppliesTo c r.word := by
  have hwin : (winField r.word).toNat = 0x1F := (toNat_eq_iff_eventWin _).mpr hw
  have hnone : Window.ofId (winField r.word) = none := (Window.ofId_eq_none_iff _).mpr (by omega)
  rw [decode_of_eventWin c hr hw]
  by_cases hc : dirField r.word = .write ∨ 3 < (offField r.word).toNat
  · rw [if_pos hc]
    cases e <;> simp [DecodeError.AppliesTo, hr, hwin, hnone, hc]
  · rw [if_neg hc]
    cases e <;> simp [DecodeError.AppliesTo, hr, hwin, hnone, hc]

/-- With another id without a window, the refusal of a reserved window is the only one. -/
theorem decode_reject_iff_of_noWindow (c : Config) {r : Request} (hr : rsvField r.word = 0#9)
    (hw : winField r.word ≠ eventWin) (hn : Window.ofId (winField r.word) = none) (e : DecodeError) :
    decode c r = .reject e ↔ e.AppliesTo c r.word := by
  have low : 0x10 ≤ (winField r.word).toNat := (Window.ofId_eq_none_iff _).mp hn
  have notEvent : (winField r.word).toNat ≠ 0x1F := mt (toNat_eq_iff_eventWin _).mp hw
  have high : (winField r.word).toNat ≤ 0x1E := by omega
  rw [decode_of_noWindow c hr hw hn]
  cases e <;> simp [DecodeError.AppliesTo, hr, hn, low, high, notEvent]

/-- With the id of a window, the first of the last three checks that fails decides. -/
theorem decode_reject_iff_of_window (c : Config) {r : Request} {w : Window} (hr : rsvField r.word = 0#9)
    (hw : Window.ofId (winField r.word) = some w) (e : DecodeError) :
    decode c r = .reject e ↔ e.AppliesTo c r.word := by
  have low : (winField r.word).toNat < 0x10 := Window.toNat_lt_of_ofId hw
  have notEvent : (winField r.word).toNat ≠ 0x1F := by omega
  have hdir := w.allows_id_eq_false_iff (dirField r.word)
  rw [Window.id_of_ofId hw] at hdir
  rw [decode_of_window c hr hw, decodeTransaction]
  by_cases he : offEven (offField r.word) = false
  · have odd := (offEven_eq_false_iff _).mp he
    rw [if_pos he]
    cases e <;> simp [DecodeError.AppliesTo, hr, hw, low, notEvent, odd]
  · have even := (offEven_iff _).mp (Bool.eq_true_of_not_eq_false he)
    rw [if_neg he]
    by_cases hd : w.allows (dirField r.word) = false
    · have wrong := hdir.mp hd
      rw [if_pos hd]
      cases e <;> simp [-List.mem_cons, DecodeError.AppliesTo, hr, hw, low, notEvent, even, hd, wrong]
    · have fits := mt hdir.mpr hd
      rw [if_neg hd]
      by_cases hs : w.size c ≤ (offField r.word).toNat
      · rw [if_pos hs]
        cases e <;> simp [-List.mem_cons, DecodeError.AppliesTo, hr, hw, low, notEvent, even, hd, fits, hs]
      · rw [if_neg hs]
        cases e <;> simp [-List.mem_cons, DecodeError.AppliesTo, hr, hw, low, notEvent, even, hd, fits, hs]

/-- Each refusal is answered exactly where its check of R94 is the first to fail. -/
theorem decode_reject_iff (c : Config) (r : Request) (e : DecodeError) :
    decode c r = .reject e ↔ e.AppliesTo c r.word := by
  by_cases hr : rsvField r.word = 0#9
  · by_cases hw : winField r.word = eventWin
    · exact decode_reject_iff_of_eventWin c hr hw e
    · cases hn : Window.ofId (winField r.word) with
      | none => exact decode_reject_iff_of_noWindow c hr hw hn e
      | some w => exact decode_reject_iff_of_window c hr hn e
  · rw [decode_of_reservedBits c hr]
    cases e <;> simp [DecodeError.AppliesTo, hr]

/-- Settles O4: one clause for each refusal, and the table of R60. -/
theorem decodeRefusalsInOrder : Obligations.DecodeRefusalsInOrder := fun c r =>
  ⟨decode_reject_iff c r .reservedBits, decode_reject_iff c r .reservedEvent, decode_reject_iff c r .reservedWindow,
    decode_reject_iff c r .oddOffset, decode_reject_iff c r .wrongDirection, decode_reject_iff c r .outOfWindow,
    Window.ofId_iff_mem_sizes c⟩

/-! ## The opcode map -/

/-- The mnemonic of a transaction, by its direction and its window id (R95); none where no window has the id and the
direction. -/
def windowMnemonic (d : Dir) (n : BitVec 5) : Option Mnemonic :=
  match Window.ofId n with
  | some w => if w.allows d = true then some (transactionOf w d 0#17 0#16 0#16).mnemonic else none
  | none => none

/-- The mnemonic R95 gives a word: the one the decoder would read if every window held every offset; none where one of the
checks of R94 before the bound's fails. -/
def wordMnemonic (q : BitVec 32) : Option Mnemonic :=
  if rsvField q ≠ 0#9 then none
  else if winField q = eventWin then
    if dirField q = .write ∨ 3 < (offField q).toNat then none else some (eventOf (offField q)).mnemonic
  else if offEven (offField q) = true then windowMnemonic (dirField q) (winField q)
  else none

/-- The mnemonics of the host events (R92). -/
def eventMnemonics : List Mnemonic := [.RENDER, .IRQ, .RESET, .PATCH]

/-- A host event's mnemonic is one of the four (R92). -/
theorem eventOf_mnemonic_mem (code : BitVec 17) : (eventOf code).mnemonic ∈ eventMnemonics := by
  unfold eventOf
  repeat' split
  all_goals decide

/-- The mnemonic of an event code stands at its place in the list (R92). -/
theorem idxOf_eventOf_mnemonic {code : BitVec 17} (h : code.toNat ≤ 3) :
    eventMnemonics.idxOf (eventOf code).mnemonic = code.toNat := by
  obtain rfl | rfl | rfl | rfl := eventCode_cases h <;> rfl

/-- The four event codes have four mnemonics (R92). -/
theorem eventOf_mnemonic_inj {a b : BitVec 17} (ha : a.toNat ≤ 3) (hb : b.toNat ≤ 3)
    (h : (eventOf a).mnemonic = (eventOf b).mnemonic) : a = b :=
  BitVec.eq_of_toNat_eq (by rw [← idxOf_eventOf_mnemonic ha, h, idxOf_eventOf_mnemonic hb])

/-- The mnemonic of a transaction is that of its window and direction (R95). -/
theorem transactionOf_mnemonic (w : Window) (d : Dir) (off : BitVec 17) (data mask : Word) :
    (transactionOf w d off data mask).mnemonic = (transactionOf w d 0#17 0#16 0#16).mnemonic := by
  cases w <;> cases d <;> rfl

/-- A direction its window has is a transaction's (R95). -/
theorem windowMnemonic_of_allows {d : Dir} {n : BitVec 5} {w : Window} (hw : Window.ofId n = some w)
    (hd : w.allows d = true) : windowMnemonic d n = some (transactionOf w d 0#17 0#16 0#16).mnemonic := by
  simp [windowMnemonic, hw, hd]

/-- No transaction has the mnemonic of a host event. -/
theorem windowMnemonic_ne_event (d : Dir) (n : BitVec 5) {m : Mnemonic} (hm : m ∈ eventMnemonics) :
    windowMnemonic d n ≠ some m := by
  have all : ∀ n, ∀ m ∈ eventMnemonics, windowMnemonic .read n ≠ some m ∧ windowMnemonic .write n ≠ some m := by
    decide
  cases d with
  | read => exact (all n m hm).1
  | write => exact (all n m hm).2

/-- Every mnemonic has its row (R95). -/
theorem exists_row_of_mnemonic (m : Mnemonic) : ∃ row ∈ opcodeMap, row.mnemonic = m := by
  cases m <;> decide

/-- Every row asks for `RSV` 0 (R95). -/
theorem rsvField_of_matches {row : Row} (hrow : row ∈ opcodeMap) {q : BitVec 32} (h : row.matches q = true) :
    rsvField q = 0#9 := by
  have rows : ∀ row ∈ opcodeMap, rsvField row.mask = BitVec.allOnes 9 ∧ rsvField row.pattern = 0#9 := by decide
  obtain ⟨hmask, hpattern⟩ := rows row hrow
  calc rsvField q
      = rsvField q &&& rsvField row.mask := by rw [hmask, BitVec.and_allOnes]
    _ = rsvField (q &&& row.mask) := BitVec.extractLsb'_and.symm
    _ = 0#9 := by rw [beq_iff_eq.mp h, hpattern]

/-- The row of a transaction asks for an even offset (R95). -/
theorem offEven_of_matches {row : Row} (hrow : row ∈ opcodeMap) (hm : row.mnemonic ∉ eventMnemonics) {q : BitVec 32}
    (h : row.matches q = true) : offEven (offField q) = true := by
  have rows : ∀ row ∈ opcodeMap, row.mnemonic ∉ eventMnemonics →
      row.mask.getLsbD 0 = true ∧ row.pattern.getLsbD 0 = false := by decide
  obtain ⟨hmask, hpattern⟩ := rows row hrow hm
  have low : (q &&& row.mask).getLsbD 0 = false := by rw [beq_iff_eq.mp h, hpattern]
  rw [BitVec.getLsbD_and, hmask, Bool.and_true] at low
  simpa [offEven, offField] using low

/-- The mask of a transaction's row keeps direction and window id, and they pick its mnemonic (R95). -/
theorem dirWin_and_mask_iff {row : Row} (hrow : row ∈ opcodeMap) (hm : row.mnemonic ∉ eventMnemonics) (d : Dir)
    (n : BitVec 5) : (dirBit d ||| (n.setWidth 32 <<< 26)) &&& row.mask = row.pattern ↔
      windowMnemonic d n = some row.mnemonic := by
  have all : ∀ row ∈ opcodeMap, row.mnemonic ∉ eventMnemonics → ∀ n : BitVec 5,
      ((dirBit .read ||| (n.setWidth 32 <<< 26)) &&& row.mask = row.pattern ↔
        windowMnemonic .read n = some row.mnemonic) ∧
      ((dirBit .write ||| (n.setWidth 32 <<< 26)) &&& row.mask = row.pattern ↔
        windowMnemonic .write n = some row.mnemonic) := by decide
  cases d with
  | read => exact (all row hrow hm n).1
  | write => exact (all row hrow hm n).2

/-- The row of a transaction matches the words of an even offset whose direction and window id have its mnemonic (R95). -/
theorem transactionRow_matches_iff {row : Row} (hrow : row ∈ opcodeMap) (hm : row.mnemonic ∉ eventMnemonics) (d : Dir)
    (n : BitVec 5) (off : BitVec 17) : row.matches (requestWord d n off) = true ↔
      offEven off = true ∧ windowMnemonic d n = some row.mnemonic := by
  have rows : ∀ row ∈ opcodeMap, row.mnemonic ∉ eventMnemonics → 0xFFFE0001#32 &&& row.mask = row.mask := by decide
  have key (he : offEven off = true) : requestWord d n off &&& row.mask =
      (dirBit d ||| (n.setWidth 32 <<< 26)) &&& row.mask := by
    rw [← requestWord_and_row d n off he, BitVec.and_assoc, rows row hrow hm]
  constructor
  · intro h
    have he : offEven off = true := by simpa using offEven_of_matches hrow hm h
    exact ⟨he, (dirWin_and_mask_iff hrow hm d n).mp (by rw [← key he]; exact beq_iff_eq.mp h)⟩
  · rintro ⟨he, h⟩
    rw [Row.matches, key he, beq_iff_eq]
    exact (dirWin_and_mask_iff hrow hm d n).mpr h

/-- The row of a host event: its whole request word, under the full mask (R92, R95). -/
def eventRow (code : BitVec 17) : Row :=
  ⟨(eventOf code).mnemonic, requestWord .read eventWin code, 0xFFFFFFFF#32⟩

/-- The opcode map's rows of host events are those of the four codes (R92, R95). -/
theorem eq_eventRow {row : Row} (hrow : row ∈ opcodeMap) (hm : row.mnemonic ∈ eventMnemonics) :
    ∃ code : BitVec 17, code.toNat ≤ 3 ∧ row = eventRow code := by
  have codes : ∀ code ∈ [0#17, 1#17, 2#17, 3#17], code.toNat ≤ 3 := by simp
  have rows : ∀ row ∈ opcodeMap, row.mnemonic ∈ eventMnemonics → row ∈ [0#17, 1#17, 2#17, 3#17].map eventRow := by
    decide
  obtain ⟨code, hcode, rfl⟩ := List.mem_map.mp (rows row hrow hm)
  exact ⟨code, codes code hcode, rfl⟩

/-- Request words with the same fields (R90). -/
theorem requestWord_inj {d d' : Dir} {n n' : BitVec 5} {off off' : BitVec 17} :
    requestWord d n off = requestWord d' n' off' ↔ d = d' ∧ n = n' ∧ off = off' := by
  constructor
  · intro h
    refine ⟨?_, ?_, ?_⟩
    · simpa using congrArg dirField h
    · simpa using congrArg winField h
    · simpa using congrArg offField h
  · rintro ⟨rfl, rfl, rfl⟩
    rfl

/-- The row of a host event matches its request word alone (R92). -/
theorem eventRow_matches_iff (code : BitVec 17) (d : Dir) (n : BitVec 5) (off : BitVec 17) :
    (eventRow code).matches (requestWord d n off) = true ↔ d = .read ∧ n = eventWin ∧ off = code := by
  have full : 0xFFFFFFFF#32 = BitVec.allOnes 32 := by decide
  rw [Row.matches, eventRow, full, BitVec.and_allOnes, beq_iff_eq, requestWord_inj]

/-- The mnemonic of a request word with the window id of host events is the event's (R92). -/
theorem wordMnemonic_eventWin (d : Dir) (off : BitVec 17) : wordMnemonic (requestWord d eventWin off) =
    if d = .write ∨ 3 < off.toNat then none else some (eventOf off).mnemonic := by
  simp [wordMnemonic]

/-- The mnemonic of a request word with another window id is the transaction's, when the offset is even (R95). -/
theorem wordMnemonic_of_ne_eventWin {n : BitVec 5} (hn : n ≠ eventWin) (d : Dir) (off : BitVec 17) :
    wordMnemonic (requestWord d n off) = if offEven off = true then windowMnemonic d n else none := by
  simp [wordMnemonic, hn]

/-- A transaction's row matches exactly the request words that have its mnemonic (R95). -/
theorem transactionRow_matches_iff_wordMnemonic {row : Row} (hrow : row ∈ opcodeMap)
    (hm : row.mnemonic ∉ eventMnemonics) (d : Dir) (n : BitVec 5) (off : BitVec 17) :
    row.matches (requestWord d n off) = true ↔ wordMnemonic (requestWord d n off) = some row.mnemonic := by
  rw [transactionRow_matches_iff hrow hm]
  by_cases hn : n = eventWin
  · have not_event : (eventOf off).mnemonic ≠ row.mnemonic := fun h => hm (h ▸ eventOf_mnemonic_mem off)
    have no_window : windowMnemonic d eventWin = none := rfl
    simp [hn, wordMnemonic_eventWin, no_window, not_event]
  · simp [wordMnemonic_of_ne_eventWin hn]

/-- A host event's row matches exactly the request words that have its mnemonic (R92, R95). -/
theorem eventRow_matches_iff_wordMnemonic {code : BitVec 17} (hcode : code.toNat ≤ 3) (d : Dir) (n : BitVec 5)
    (off : BitVec 17) : (eventRow code).matches (requestWord d n off) = true ↔
      wordMnemonic (requestWord d n off) = some (eventRow code).mnemonic := by
  rw [eventRow_matches_iff]
  by_cases hn : n = eventWin
  · rw [hn, wordMnemonic_eventWin]
    constructor
    · rintro ⟨rfl, -, rfl⟩
      rw [if_neg (by simpa using hcode)]
      rfl
    · intro h
      split at h
      · cases h
      · next hc =>
        obtain ⟨hd, hoff⟩ := eventCode_of_not_reserved hc
        exact ⟨hd, rfl, eventOf_mnemonic_inj hoff hcode (Option.some.inj h)⟩
  · have not_window := windowMnemonic_ne_event d n (eventOf_mnemonic_mem code)
    simp [hn, wordMnemonic_of_ne_eventWin hn, eventRow, not_window]

/-- A row of the opcode map matches exactly the words that have its mnemonic (R95). -/
theorem matches_iff_wordMnemonic {row : Row} (hrow : row ∈ opcodeMap) (q : BitVec 32) :
    row.matches q = true ↔ wordMnemonic q = some row.mnemonic := by
  by_cases hr : rsvField q = 0#9
  · rw [← requestWord_fields q hr]
    by_cases hm : row.mnemonic ∈ eventMnemonics
    · obtain ⟨code, hcode, rfl⟩ := eq_eventRow hrow hm
      exact eventRow_matches_iff_wordMnemonic hcode _ _ _
    · exact transactionRow_matches_iff_wordMnemonic hrow hm _ _ _
  · have no_match : row.matches q ≠ true := mt (rsvField_of_matches hrow) hr
    simp [wordMnemonic, hr, no_match]

/-- A decoded word has the mnemonic of its instruction (R94, R95). -/
theorem wordMnemonic_of_decode_instr {c : Config} {r : Request} {i : Instr} (h : decode c r = .instr i) :
    wordMnemonic r.word = some i.mnemonic := by
  obtain ⟨hr, ⟨hw, hd, hc, rfl⟩ | ⟨w, hw, he, hd, -, rfl⟩⟩ := decode_instr_cases h
  · have hcode : ¬ 3 < (offField r.word).toNat := by omega
    simp [wordMnemonic, hr, hw, hd, hcode]
  · simp [wordMnemonic, hr, winField_ne_eventWin hw, he, windowMnemonic_of_allows hw hd,
      transactionOf_mnemonic w _ (offField r.word)]

/-- A word refused as out of window has a mnemonic: only the bound's check failed (R94). -/
theorem wordMnemonic_of_decode_outOfWindow {c : Config} {r : Request} (h : decode c r = .reject .outOfWindow) :
    wordMnemonic r.word ≠ none := by
  obtain ⟨w, hr, hw, he, hd, -⟩ := (decode_reject_iff c r .outOfWindow).mp h
  have even := (offEven_iff _).mpr he
  simp [wordMnemonic, hr, winField_ne_eventWin hw, even, windowMnemonic_of_allows hw hd]

/-- A window id and a direction have a mnemonic only where a window has them. -/
theorem exists_window_of_windowMnemonic {d : Dir} {n : BitVec 5} {m : Mnemonic} (h : windowMnemonic d n = some m) :
    ∃ w, Window.ofId n = some w ∧ w.allows d = true := by
  unfold windowMnemonic at h
  split at h
  · next w hw =>
    split at h
    · next hd => exact ⟨w, hw, hd⟩
    · cases h
  · cases h

/-- A word with a mnemonic is refused for no other reason than its bound (R94, R96). -/
theorem decode_reject_of_wordMnemonic {c : Config} {r : Request} {m : Mnemonic} {e : DecodeError}
    (h : wordMnemonic r.word = some m) (hd : decode c r = .reject e) : e = .outOfWindow := by
  unfold wordMnemonic at h
  split at h
  · cases h
  · next hr =>
    have hr := not_not.mp hr
    split at h
    · next hw =>
      rw [decode_of_eventWin c hr hw] at hd
      split at h
      · cases h
      · next hc =>
        rw [if_neg hc] at hd
        cases hd
    · split at h
      · next he =>
        obtain ⟨w, hw, ha⟩ := exists_window_of_windowMnemonic h
        rw [decode_of_window c hr hw, decodeTransaction, if_neg (by simp [he]), if_neg (by simp [ha])] at hd
        split at hd
        · cases hd
          rfl
        · cases hd
      · cases h

/-- Settles O3: a row matches the words of its mnemonic, and the decoder reads that mnemonic or refuses the bound. -/
theorem opcodeMapAndDecoderAgree : Obligations.OpcodeMapAndDecoderAgree := by
  intro c r
  refine ⟨fun i h row hrow => ?_, fun row hrow h => ?_, fun h => ?_⟩
  · rw [matches_iff_wordMnemonic hrow, wordMnemonic_of_decode_instr h, Option.some_inj, eq_comm]
  · rw [matches_iff_wordMnemonic hrow] at h
    cases hd : decode c r with
    | instr i =>
      rw [wordMnemonic_of_decode_instr hd] at h
      exact .inr ⟨i, rfl, Option.some.inj h⟩
    | reject e =>
      rw [decode_reject_of_wordMnemonic h hd]
      exact .inl rfl
  · have none_matches : wordMnemonic r.word = none := by
      rw [Option.eq_none_iff_forall_ne_some]
      intro m hm
      obtain ⟨row, hrow, rfl⟩ := exists_row_of_mnemonic m
      simpa [h row hrow] using (matches_iff_wordMnemonic hrow r.word).mpr hm
    cases hd : decode c r with
    | instr i =>
      rw [wordMnemonic_of_decode_instr hd] at none_matches
      cases none_matches
    | reject e =>
      refine ⟨e, rfl, ?_⟩
      rintro rfl
      exact wordMnemonic_of_decode_outOfWindow hd none_matches

end Sys2Proof
end

section
/-! SUPPORT. The protection device: the loopback write and the remapped read (40_loopback.md sections 1 and 2), and the
bootleg patch (section 3), whose matches taken and words changed are stated once and read off for each claim. -/

namespace Sys2Proof.Machine

/-! ## The loopback write -/

/-- LBW under a lane mask answers the masked store of its register (R110). -/
theorem exec_lbw_eq {mask : Word} (h : isLaneMask mask = true) (off : BitVec 17) (data : Word) (s : State) :
    exec (.lbw off data mask) s = .next (s.storeMasked .lb off data mask) :=
  guardMask_of_lane h _

/-- Settles O19: the masked store combines the addressed word of its buffer and leaves everything else. -/
theorem lbwCombinesItsRegister : Obligations.LbwCombinesItsRegister := by
  intro s off data mask hm
  refine ⟨_, exec_lbw_eq hm off data s, fun w => ?_, s.storeMasked_keeps .lb off data mask⟩
  rw [State.storeMasked_wordAt, wordIndex]
  by_cases hw : w = off.toNat / 2 <;> simp [hw]

/-- Combining a word a second time with the same data and mask changes no byte (R111). -/
theorem Memory.readByte_combineAt_twice (m : Memory) (w : Nat) (data mask : Word) (a : Nat) :
    ((m.combineAt w data mask).combineAt w data mask).readByte a = (m.combineAt w data mask).readByte a := by
  have word : combine ((m.combineAt w data mask).readWord w) data mask = combine (m.readWord w) data mask := by
    rw [Memory.readWord_combineAt, if_pos rfl, combine_idem]
  rw [Memory.readByte_combineAt, word, Memory.readByte_combineAt m]
  split
  · rfl
  · split <;> rfl

/-- In a canonical memory the second combine gives the very same memory. -/
theorem Memory.combineAt_twice {m : Memory} (h : m.wf) (w : Nat) (data mask : Word) :
    (m.combineAt w data mask).combineAt w data mask = m.combineAt w data mask :=
  Memory.eq_of_readByte (Memory.wf_combineAt (Memory.wf_combineAt h _ _ _) _ _ _) (Memory.wf_combineAt h _ _ _)
    (Memory.combineAt_fill _ _ _ _) (Memory.readByte_combineAt_twice m w data mask)

/-- A frame that lists one buffer, whose bytes are the same too, lists nothing. -/
theorem Frame.of_same_mem {s t : State} {sp : Space} (h : Frame [.mem sp] s t)
    (hm : ∀ a, (t.mem sp).readByte a = (s.mem sp).readByte a) : Frame [] s t := by
  intro p _
  by_cases hp : p = .mem sp
  · subst hp
    exact hm
  · exact h p (by simpa using hp)

/-- The second of two equal loopback writes from a canonical state answers the very same state (R111). -/
theorem State.storeMasked_lb_twice {s : State} (h : (s.mem .lb).wf) (off : BitVec 17) (data mask : Word) :
    (s.storeMasked .lb off data mask).storeMasked .lb off data mask = s.storeMasked .lb off data mask := by
  have same := Memory.combineAt_twice h (wordIndex off) data mask
  simpa only [State.storeMasked, State.setMem, State.mem] using congrArg (fun m => { s with lb := m }) same

/-- Settles O20: the second combine changes no byte, and canonical memories that read alike are the same. -/
theorem lbwTwiceIsLbwOnce : Obligations.LbwTwiceIsLbwOnce := by
  intro s off data mask hm
  refine ⟨_, _, exec_lbw_eq hm off data s, exec_lbw_eq hm off data _, ?_, fun hs => ?_⟩
  · refine (State.storeMasked_keeps _ .lb off data mask).of_same_mem fun a => ?_
    simpa only [State.storeMasked_mem, if_pos] using
      Memory.readByte_combineAt_twice (s.mem .lb) (wordIndex off) data mask a
  · exact State.storeMasked_lb_twice (hs.1 .lb) off data mask

/-! ## The remapped read -/

section
variable {s : State} {off : Nat}

theorem State.protRead_of_loop {i : BitVec 8} (h : s.cfg.tableInUse.target off = some (.loop i)) :
    s.protRead off = s.respond (s.wordAt .lb i.toNat) := by
  simp [State.protRead, h]

theorem State.protRead_of_input {p : PortId} (h : s.cfg.tableInUse.target off = some (.input p)) :
    s.protRead off = s.readInput p := by
  simp [State.protRead, h]

theorem State.protRead_of_yield (h : s.cfg.tableInUse.target off = some .yield) :
    s.protRead off = (s.holdHost.emit .yield).respond s.cfg.yieldValue := by
  simp [State.protRead, h]

theorem State.protRead_of_none (h : s.cfg.tableInUse.target off = none) :
    s.protRead off = (s.emit (.unmappedRead off)).respond 0x0000#16 := by
  simp [State.protRead, h]

end

theorem exec_prd_eq (off : BitVec 17) (s : State) : exec (.prd off) s = .next (s.protRead off.toNat) := rfl

/-- Settles O21: the addressed word is the combine under the low-lane mask, and the write leaves the read table. -/
theorem lowByteWriteKeepsHighByte : Obligations.LowByteWriteKeepsHighByte := by
  intro s off data
  have stored : (s.storeMasked .lb off data 0x00FF#16).wordAt .lb (off.toNat / 2) =
      combine (s.wordAt .lb (off.toNat / 2)) data 0x00FF#16 := by
    rw [State.storeMasked_wordAt, wordIndex, if_pos ⟨rfl, rfl⟩]
  refine ⟨_, exec_lbw_eq (by decide) off data s, ?_, ?_, fun off' i hi hw => ⟨_, exec_prd_eq off' _, ?_⟩⟩
  · rw [stored, hiLane_combine_low]
  · rw [stored, loLane_combine_low]
  · rw [State.protRead_of_loop (by simpa using hi), State.respond_readData, hw]

/-- Settles O22: each kind of entry by the remapped read's equation for it. -/
theorem prdFollowsTheReadTable : Obligations.PrdFollowsTheReadTable := by
  intro s off
  refine ⟨fun i h => ⟨_, exec_prd_eq off s, ?_⟩, fun p h => ⟨_, exec_prd_eq off s, ?_⟩,
    fun h => ⟨_, exec_prd_eq off s, ?_⟩⟩
  · rw [State.protRead_of_loop h]
    exact ⟨s.respond_readData _, s.respond_keeps _⟩
  · rw [State.protRead_of_input h]
    exact ⟨s.readInput_readData p, s.readInput_draws p, s.readInput_keeps p⟩
  · rw [State.protRead_of_yield h]
    exact ⟨by simp, by simp, State.respond_readData _ _,
      (s.holdHost_keeps.trans (State.emit_keeps _ _)).trans (State.respond_keeps _ _)⟩

/-- Settles O23: an unmapped offset is reported and answered with zero. -/
theorem prdUnmappedReturnsZero : Obligations.PrdUnmappedReturnsZero := by
  intro s off h
  refine ⟨_, exec_prd_eq off s, ?_⟩
  rw [State.protRead_of_none h]
  exact ⟨State.respond_readData _ _, by simp,
    ((s.emit_keeps _).trans (State.respond_keeps _ _)).mono (by simp)⟩

/-- What a table maps an offset to is one of its entries (R114). -/
theorem mem_of_target {m : ReadMap} {off : Nat} {T : Target} (h : m.target off = some T) : (off, T) ∈ m := by
  by_contra hmem
  induction m with
  | nil => cases h
  | cons e rest ih =>
    obtain ⟨k, u⟩ := e
    rw [ReadMap.target] at h
    split at h
    · next hk =>
      cases h
      exact hmem (by simp [hk])
    · exact ih h fun ht => hmem (List.mem_cons_of_mem _ ht)

/-- The offsets of a table's yield entries (R117). -/
theorem mem_yields_iff {m : ReadMap} {off : Nat} : off ∈ m.yields ↔ (off, .yield) ∈ m := by
  simp [ReadMap.yields]

/-- The constraints on the two read tables (R114, R117): no key stands twice, and the one yield entry is edrandy's, at
`YIELD_OFFSET`. -/
theorem readTables_of_wellFormed {c : Config} (h : c.wellFormed = true) :
    (c.readmapCninja.map Prod.fst).Nodup ∧ (c.readmapEdrandy.map Prod.fst).Nodup ∧
    c.readmapCninja.yields = [] ∧ c.readmapEdrandy.yields = [c.yieldOffset] := by
  simp only [Config.wellFormed, ReadMap.wellFormed, Bool.and_eq_true, decide_eq_true_eq, List.isEmpty_iff,
    beq_iff_eq] at h
  simp only [h, and_self]

/-- In the table in use no key stands twice (R114). -/
theorem tableInUse_nodup {c : Config} (h : c.wellFormed = true) : (c.tableInUse.map Prod.fst).Nodup := by
  obtain ⟨hc, he, -, -⟩ := readTables_of_wellFormed h
  rw [Config.tableInUse_eq]
  split
  · exact hc
  · exact he

/-- The table in use yields on a non-bootleg edrandy board at `YIELD_OFFSET` only (R117, R118). -/
theorem yield_entry_of_wellFormed {c : Config} (h : c.wellFormed = true) {off : Nat}
    (hy : (off, .yield) ∈ c.tableInUse) :
    c.bootleg = false ∧ c.readTable = .edrandy ∧ off = c.yieldOffset := by
  obtain ⟨-, -, hc, he⟩ := readTables_of_wellFormed h
  rw [Config.tableInUse_eq] at hy
  split at hy
  · have := mem_yields_iff.2 hy
    simp [hc] at this
  · next board =>
    have := mem_yields_iff.2 hy
    obtain ⟨hb, hr⟩ := not_or.1 board
    refine ⟨by simpa using hb, ?_, by simpa [he] using this⟩
    cases ht : c.readTable with
    | cninja => exact absurd ht hr
    | edrandy => rfl

/-- Settles O24: a read that sets SUSPEND found a yield entry, and the constraints place that entry. -/
theorem yieldOnlyOnEdrandy : Obligations.YieldOnlyOnEdrandy := by
  refine ⟨Config.tableInUse_eq, fun c hc => ⟨fun off T h => ReadMap.target_of_mem (tableInUse_nodup hc) h,
    fun off h => ReadMap.target_eq_none h⟩, ?_⟩
  intro s t off hc hs h ht
  cases h
  obtain ⟨-, hy⟩ := State.protRead_suspend (s := s) (off := off.toNat) (by simp [ht, hs])
  exact yield_entry_of_wellFormed hc (mem_of_target hy)

/-! ## The bootleg patch -/

/-- What the patch makes of an image (R120), with the matches taken: they are, in ascending order, the matches of the image
before that stand more than 4 words after every one taken before them, and exactly their five words each are the no-op word. -/
structure PatchOutcome (p : PatchParams) (before after : List Word) (taken : List Nat) : Prop where
  ascending : taken.Pairwise (· < ·)
  mem_iff : ∀ i, i ∈ taken ↔ PatchMatch p before i ∧ ∀ k ∈ taken, k < i → k + 4 < i
  blanked : ∀ j, (∃ i ∈ taken, i - 4 ≤ j ∧ j ≤ i) → after[j]? = some p.nop
  kept : ∀ j, (∀ i ∈ taken, ¬ (i - 4 ≤ j ∧ j ≤ i)) → after[j]? = before[j]?

/-- The no-op word is in neither pattern set (R121). -/
theorem idempotent_iff {p : PatchParams} : p.idempotent = true ↔ p.nop ∉ p.ops ∧ p.nop ∉ p.cmps := by
  simp [PatchParams.idempotent]

/-- The scan of the whole region starts with no match taken and the image as it is. -/
theorem patchRun_outcome {p : PatchParams} (hp : p.idempotent = true) (img : List Word) :
    ∃ taken, PatchOutcome p img (patchRun p img).1 taken ∧ (patchRun p img).2 = taken.map (· - 4) := by
  obtain ⟨taken, hevents, hasc, hwords, hmem⟩ := patchScan_spec (idempotent_iff.1 hp).2 img
    (p.hi + 1 - (p.lo + 4)) (p.lo + 4) img [] (by omega) rfl (by simp) .nil (by simp) (by simp)
    (fun k => by simp only [List.not_mem_nil, false_iff]; omega) le_rfl
  simp only [List.nil_append] at hasc hwords hmem
  refine ⟨taken, ⟨hasc, fun i => ?_, fun j => (hwords j).1, fun j => (hwords j).2⟩, hevents⟩
  have region : p.lo + 4 ≤ i ∧ i < p.lo + 4 + (p.hi + 1 - (p.lo + 4)) ↔ p.lo + 4 ≤ i ∧ i ≤ p.hi := by omega
  rw [hmem, patchMatch_iff, ← and_assoc, region]
  simp only [and_assoc]

/-- The scan keeps the length of the image. -/
theorem patchScan_length (p : PatchParams) (count : Nat) :
    ∀ (i : Nat) (img : List Word), (patchScan p count i img).1.length = img.length := by
  induction count with
  | zero => exact fun _ _ => rfl
  | succ n ih =>
    intro i img
    rw [patchScan]
    split
    · rw [ih, patchBlank_length]
    · exact ih _ _

theorem patchRun_length (p : PatchParams) (img : List Word) : (patchRun p img).1.length = img.length :=
  patchScan_length p _ _ img

/-- A match stands inside the image. -/
theorem PatchMatch.lt_length {p : PatchParams} {img : List Word} {i : Nat} (h : PatchMatch p img i) : i < img.length := by
  obtain ⟨-, -, ⟨o, ho, -⟩, -⟩ := h
  exact (List.getElem?_eq_some_iff.1 ho).1

section
variable {p : PatchParams} {before after : List Word} {taken : List Nat}

/-- A match taken is a match of the image before. -/
theorem PatchOutcome.match_of_mem (h : PatchOutcome p before after taken) {i : Nat} (hi : i ∈ taken) :
    PatchMatch p before i :=
  ((h.mem_iff i).1 hi).1

/-- A word is as before, or is one of the five words of a match taken. -/
theorem PatchOutcome.kept_or_blanked (h : PatchOutcome p before after taken) (j : Nat) :
    after[j]? = before[j]? ∨ (after[j]? = some p.nop ∧ ∃ i ∈ taken, i - 4 ≤ j ∧ j ≤ i) := by
  by_cases hj : ∃ i ∈ taken, i - 4 ≤ j ∧ j ≤ i
  · exact .inr ⟨h.blanked j hj, hj⟩
  · exact .inl (h.kept j fun i hi hij => hj ⟨i, hi, hij⟩)

/-- A word after the patch that is not the no-op word is as before, and no match taken covers it. -/
theorem PatchOutcome.kept_of_ne_nop (h : PatchOutcome p before after taken) {j : Nat} {v : Word}
    (hv : after[j]? = some v) (hne : v ≠ p.nop) :
    before[j]? = some v ∧ ∀ i ∈ taken, ¬ (i - 4 ≤ j ∧ j ≤ i) := by
  have uncovered : ∀ i ∈ taken, ¬ (i - 4 ≤ j ∧ j ≤ i) := fun i hi hij =>
    hne (Option.some.inj (hv.symm.trans (h.blanked j ⟨i, hi, hij⟩)))
  exact ⟨(h.kept j uncovered).symm.trans hv, uncovered⟩

/-- No match is left (R121): its two words are patterns, so they are as before and no match taken covers them; but a match of
the image before was taken, or its compare word is covered by a match taken at most 4 words before. -/
theorem PatchOutcome.no_match (h : PatchOutcome p before after taken) (hp : p.idempotent = true) (i : Nat) :
    ¬ PatchMatch p after i := by
  rintro ⟨hlo, hhi, ⟨o, ho, hops⟩, c, hc, hcmps⟩
  obtain ⟨hnops, hncmps⟩ := idempotent_iff.1 hp
  obtain ⟨ho', uncovered⟩ := h.kept_of_ne_nop ho (fun e => hnops (e ▸ hops))
  obtain ⟨hc', uncovered'⟩ := h.kept_of_ne_nop hc (fun e => hncmps (e ▸ hcmps))
  have taken_i : i ∈ taken := (h.mem_iff i).2 ⟨⟨hlo, hhi, ⟨o, ho', hops⟩, c, hc', hcmps⟩, fun k hk hki => by
    have := uncovered' k hk
    omega⟩
  exact uncovered i taken_i (by omega)

/-- The first match of the image before is the first one taken. -/
theorem PatchOutcome.first_taken (h : PatchOutcome p before after taken) {i : Nat} (hi : PatchMatch p before i)
    (hfirst : ∀ j, j < i → ¬ PatchMatch p before j) : ∃ rest, taken = i :: rest := by
  have none_before : ∀ k ∈ taken, ¬ k < i := fun k hk hki => hfirst k hki (h.match_of_mem hk)
  have mem : i ∈ taken := (h.mem_iff i).2 ⟨hi, fun k hk hki => absurd hki (none_before k hk)⟩
  cases taken with
  | nil => cases mem
  | cons k rest =>
    have hk := none_before k List.mem_cons_self
    rcases List.mem_cons.1 mem with rfl | hrest
    · exact ⟨rest, rfl⟩
    · exact absurd (List.rel_of_pairwise_cons h.ascending hrest) hk

end

/-- An image without a match is left as it is, and nothing is taken. -/
theorem patchRun_of_no_match {p : PatchParams} (hp : p.idempotent = true) {img : List Word}
    (h : ∀ i, ¬ PatchMatch p img i) : patchRun p img = (img, []) := by
  obtain ⟨taken, outcome, hevents⟩ := patchRun_outcome hp img
  obtain rfl : taken = [] := List.eq_nil_iff_forall_not_mem.2 fun i hi => h i (outcome.match_of_mem hi)
  have image : (patchRun p img).1 = img := List.ext_getElem? fun j => outcome.kept j (by simp)
  exact Prod.ext image hevents

/-- PATCH of an image without a match answers the same state. -/
theorem State.patchImage_of_no_match {s : State} (hp : s.cfg.patch.idempotent = true)
    (h : ∀ i, ¬ PatchMatch s.cfg.patch s.img i) : s.patchImage = s := by
  simp [State.patchImage, patchRun_of_no_match hp h]

/-- Where PATCH answers a next state on a bootleg board, R121's condition holds and the image is patched. -/
theorem exec_patch_bootleg {s t : State} (hb : s.cfg.bootleg = true) (h : exec .patch s = .next t) :
    s.cfg.patch.idempotent = true ∧ t = s.patchImage := by
  obtain ⟨hb', -⟩ | ⟨-, hp, he⟩ | ⟨-, -, he⟩ := execPatch_cases s
  · rw [hb] at hb'
    cases hb'
  · exact ⟨hp, Host.Outcome.next.inj (h.symm.trans he)⟩
  · cases he.symm.trans h

/-- On a bootleg board that meets R121's condition PATCH answers the patched image. -/
theorem exec_patch_of_idempotent {s : State} (hb : s.cfg.bootleg = true) (hp : s.cfg.patch.idempotent = true) :
    exec .patch s = .next s.patchImage := by
  simp [exec, execPatch, hb, hp]

/-- Settles O26, by the three answers of PATCH. -/
theorem patchCompletesOrRefuses : Obligations.PatchCompletesOrRefuses := by
  intro s
  obtain ⟨hb, he⟩ | ⟨hb, hp, he⟩ | ⟨hb, hp, he⟩ := execPatch_cases s
  · exact ⟨fun _ => he, by simp [hb], by simp [hb]⟩
  · exact ⟨by simp [hb], fun _ _ => ⟨_, he, s.patchImage_keeps⟩, by simp [hp]⟩
  · exact ⟨by simp [hb], by simp [hp], fun _ _ => he⟩

/-- A patched image has no match. -/
theorem State.patchImage_no_match {s : State} (hp : s.cfg.patch.idempotent = true) (i : Nat) :
    ¬ PatchMatch s.cfg.patch s.patchImage.img i := by
  obtain ⟨taken, outcome, -⟩ := patchRun_outcome hp s.img
  exact outcome.no_match hp i

/-- Settles O25: a patched image has no match, so patching it again changes nothing. -/
theorem patchIsIdempotent : Obligations.PatchIsIdempotent := by
  refine ⟨fun s t h => ?_, fun s hb hnop => (patchCompletesOrRefuses s).2.2 hb ?_⟩
  · cases hb : s.cfg.bootleg with
    | false =>
      obtain ⟨same, -, -⟩ := patchCompletesOrRefuses s
      cases (same hb).symm.trans h
      exact h
    | true =>
      obtain ⟨hp, rfl⟩ := exec_patch_bootleg hb h
      have unchanged := State.patchImage_of_no_match (s := s.patchImage) hp (State.patchImage_no_match hp)
      rw [exec_patch_of_idempotent (s := s.patchImage) hb hp, unchanged]
  · rw [← Bool.not_eq_true, idempotent_iff, ← not_or, not_not]
    exact hnop

/-- Settles O27: a word that changed is one of the five words of a match taken, and those stand inside region and image. -/
theorem patchLeavesNoMatch : Obligations.PatchLeavesNoMatch := by
  intro s t hb h
  obtain ⟨hp, rfl⟩ := exec_patch_bootleg hb h
  obtain ⟨taken, outcome, -⟩ := patchRun_outcome hp s.img
  have changed : ∀ j, s.patchImage.img[j]? = s.img[j]? ∨ (s.patchImage.img[j]? = some s.cfg.patch.nop ∧
      ∃ i, PatchMatch s.cfg.patch s.img i ∧ i - 4 ≤ j ∧ j ≤ i) := fun j =>
    (outcome.kept_or_blanked j).imp_right fun ⟨hn, i, hi, hij⟩ => ⟨hn, i, outcome.match_of_mem hi, hij⟩
  refine ⟨State.patchImage_no_match hp, fun j => ?_, fun j hj => ?_, patchRun_length _ _, fun j hj => ?_,
    State.patchImage_of_no_match hp⟩
  · refine (changed j).imp_right fun ⟨hn, i, hi, _, hji⟩ => ⟨hn, hji.trans_lt hi.lt_length⟩
  · refine (changed j).resolve_right fun ⟨_, i, ⟨hlo, hhi, _⟩, hij⟩ => ?_
    omega
  · exact ((changed j).resolve_left hj).2

/-- Settles O28: the matches the scan takes are the ones asked for, and the first match of the image is its first. -/
theorem patchBlanksTheFirstMatch : Obligations.PatchBlanksTheFirstMatch := by
  intro s t hb h
  obtain ⟨hp, rfl⟩ := exec_patch_bootleg hb h
  obtain ⟨taken, outcome, hevents⟩ := patchRun_outcome hp s.img
  have hist : s.patchImage.hist = s.hist ++ taken.map (fun i => .patched (i - 4)) := by
    rw [State.patchImage_hist, hevents, List.map_map]
    rfl
  refine ⟨fun i hi hfirst => ?_, taken, outcome.ascending, outcome.mem_iff, hist,
    fun j => ⟨outcome.blanked j, outcome.kept j⟩⟩
  obtain ⟨rest, rfl⟩ := outcome.first_taken hi hfirst
  exact ⟨fun j hij hji => outcome.blanked j ⟨i, List.mem_cons_self, hij, hji⟩, _, hist⟩

end Sys2Proof.Machine
end

section
/-! SUPPORT. The compositor's bus (41_video_bus.md): what each of its requests answers, the words, the dirty bits and the events
after it, and the bootleg correction of a control word. -/

namespace Sys2Proof.Machine

/-! ## What the requests answer -/

section
variable {mask : Word} (h : isLaneMask mask = true) (L : Layer) (b : Block) (off : BitVec 17) (data : Word) (s : State)
include h

/-- TDW under a lane mask stores its tile word and marks the word's cell (R141). -/
theorem exec_tdw_eq :
    exec (.tdw L off data mask) s = .next ((s.storeMasked (.td L) off data mask).markDirty L (wordIndex off)) :=
  guardMask_of_lane h _

/-- RSW under a lane mask answers the masked store of its rowscroll word (R143). -/
theorem exec_rsw_eq : exec (.rsw L off data mask) s = .next (s.storeMasked (.rs L) off data mask) :=
  guardMask_of_lane h _

/-- CTW under a lane mask answers the masked store of its control word, the data corrected first (R145). -/
theorem exec_ctw_eq :
    exec (.ctw b off data mask) s = .next (s.storeMasked (.ctrl b) off (ctrlValue s.cfg b off data) mask) :=
  guardMask_of_lane h _

/-- PLW under a lane mask answers the palette store (R150). -/
theorem exec_plw_eq : exec (.plw off data mask) s = .next (s.storePalette off data mask) :=
  guardMask_of_lane h _

/-- SRW under a lane mask answers the masked store of its word of the live copy (R152). -/
theorem exec_srw_eq : exec (.srw off data mask) s = .next (s.storeMasked .sprLive off data mask) :=
  guardMask_of_lane h _

/-- DMA under a lane mask makes the buffered sprite copy the live one (R154). -/
theorem exec_dma_eq : exec (.dma data mask) s = .next (s.setMem .sprBuf (s.mem .sprLive)) :=
  guardMask_of_lane h _

/-- SLW under a lane mask latches its data (R155). -/
theorem exec_slw_eq : exec (.slw data mask) s = .next (s.latchSound data mask) :=
  guardMask_of_lane h _

end

section
variable (L : Layer) (off : BitVec 17) (s : State)

theorem exec_tdr_eq : exec (.tdr L off) s = .next (s.readBack (.td L) off) := rfl

theorem exec_rsr_eq : exec (.rsr L off) s = .next (s.readBack (.rs L) off) := rfl

theorem exec_plr_eq : exec (.plr off) s = .next (s.readBack .pal off) := rfl

theorem exec_srr_eq : exec (.srr off) s = .next (s.readBack .sprLive off) := rfl

end

/-! ## Words and dirty bits after a store -/

section
variable (s : State)

/-- The words of the buffer a masked store is for: the addressed word is combined, every other is as before (R140). -/
theorem State.storeMasked_wordAt_same (sp : Space) (off : BitVec 17) (data mask : Word) (w : Nat) :
    (s.storeMasked sp off data mask).wordAt sp w =
      if w = off.toNat / 2 then combine (s.wordAt sp w) data mask else s.wordAt sp w := by
  simp only [State.storeMasked_wordAt, wordIndex, true_and]

/-- The addressed word after a masked store (R10, R140). -/
theorem State.storeMasked_wordAt_addressed (sp : Space) (off : BitVec 17) (data mask : Word) :
    (s.storeMasked sp off data mask).wordAt sp (off.toNat / 2) =
      combine (s.wordAt sp (off.toNat / 2)) data mask := by
  rw [State.storeMasked_wordAt_same, if_pos rfl]

@[simp] theorem State.markDirty_wordAt (L : Layer) (cell : Nat) (sp : Space) (w : Nat) :
    (s.markDirty L cell).wordAt sp w = s.wordAt sp w := by
  rw [State.wordAt, State.markDirty_mem, State.wordAt]

@[simp] theorem State.storePalette_wordAt (off : BitVec 17) (data mask : Word) (sp : Space) (w : Nat) :
    (s.storePalette off data mask).wordAt sp w = (s.storeMasked .pal off data mask).wordAt sp w := by
  rw [State.wordAt, State.storePalette_mem, State.wordAt]

@[simp] theorem State.storeMasked_isDirty (sp : Space) (off : BitVec 17) (data mask : Word) (L : Layer) (w : Nat) :
    (s.storeMasked sp off data mask).isDirty L w = s.isDirty L w := by
  rw [State.isDirty, State.storeMasked_dirty, State.isDirty]

/-- The dirty bits after a cell is marked: that cell's is set, every other is as before (R39, R141). -/
theorem State.markDirty_isDirty (L : Layer) (cell : Nat) {w : Nat} (hw : w < 2048) :
    (s.markDirty L cell).isDirty L w = (s.isDirty L w || w == cell) := by
  have bit : (BitVec.twoPow 2048 cell).getLsbD w = (w == cell) := by
    rw [BitVec.getLsbD_twoPow, Bool.eq_iff_iff]
    simp only [Bool.and_eq_true, decide_eq_true_eq, beq_iff_eq]
    omega
  rw [State.isDirty, State.markDirty_dirty_get, if_pos rfl, BitVec.getLsbD_or, bit, State.isDirty]

end

/-- Settles O29: the masked store gives the words, the cell marked after it the dirty bits. -/
theorem tdwStoresAndMarksDirty : Obligations.TdwStoresAndMarksDirty := by
  intro s L off data mask hm
  refine ⟨_, exec_tdw_eq hm L off data s, fun w => ?_, fun w hw => ?_,
    (s.storeMasked_keeps _ off data mask).trans (State.markDirty_keeps _ L _)⟩
  · rw [State.markDirty_wordAt, State.storeMasked_wordAt_same]
  · rw [State.markDirty_isDirty _ _ _ hw, State.storeMasked_isDirty, wordIndex]

/-- Settles O30: both are the masked store, of different buffers. -/
theorem rswAndSrwStore : Obligations.RswAndSrwStore := by
  intro s L off data mask hm
  exact ⟨⟨_, exec_rsw_eq hm L off data s, s.storeMasked_wordAt_same _ off data mask, s.storeMasked_keeps _ off data mask⟩,
    ⟨_, exec_srw_eq hm off data s, s.storeMasked_wordAt_same _ off data mask, s.storeMasked_keeps _ off data mask⟩⟩

/-- Settles O31: all four are the shared read, of different buffers. -/
theorem ramReadsReturnStoredWord : Obligations.RamReadsReturnStoredWord := by
  intro s L off
  have read (sp : Space) := And.intro (s.readBack_readData sp off) (s.readBack_keeps sp off)
  exact ⟨⟨_, exec_tdr_eq L off s, read _⟩, ⟨_, exec_rsr_eq L off s, read _⟩, ⟨_, exec_plr_eq off s, read _⟩,
    ⟨_, exec_srr_eq off s, read _⟩⟩

/-! ## Control words and the bootleg correction -/

/-- Settles O33: the masked store of the value the variant writes. -/
theorem ctwCombinesControlWord : Obligations.CtwCombinesControlWord := by
  intro s b off data mask hm
  exact ⟨_, exec_ctw_eq hm b off data s, s.storeMasked_wordAt_same _ off _ mask, s.storeMasked_keeps _ off _ mask⟩

/-- The table of the correction in numbers mod 2^16 (R146, D39). -/
theorem correct_toNat (b : Block) (off : BitVec 17) (v : Word) :
    (correct b off v).toNat =
      if b = .c0 ∧ off.toNat = 0x06 then (v.toNat + 0xA) % 65536
      else if b = .c1 ∧ off.toNat = 0x02 then (v.toNat + 0xFFFE) % 65536
      else if b = .c1 ∧ off.toNat = 0x06 then (v.toNat + 0xA) % 65536
      else v.toNat := by
  have add : (v + 0x000A#16).toNat = (v.toNat + 0xA) % 65536 := BitVec.toNat_add _ _
  have sub : (v - 0x0002#16).toNat = (v.toNat + 0xFFFE) % 65536 := by
    rw [BitVec.toNat_sub, Nat.add_comm]
    rfl
  have at6 : off = 0x06#17 ↔ off.toNat = 0x06 := BitVec.toNat_eq
  have at2 : off = 0x02#17 ↔ off.toNat = 0x02 := BitVec.toNat_eq
  cases b with
  | c0 => simp only [correct, at6, apply_ite BitVec.toNat, add, true_and, reduceCtorEq, false_and, if_false]
  | c1 => simp only [correct, at2, at6, apply_ite BitVec.toNat, add, sub, true_and, reduceCtorEq, false_and, if_false]

/-- Settles O34: a word stored whole is the value the variant writes, and the correction's table gives it. -/
theorem bootlegCorrectionStoresTable : Obligations.BootlegCorrectionStoresTable := by
  intro s t b off v h
  cases (exec_ctw_eq isLaneMask_word b off v s).symm.trans h
  rw [State.storeMasked_wordAt_addressed, combine_word]
  cases hb : s.cfg.bootleg with
  | false => simp [ctrlValue_of_not_bootleg hb]
  | true => simpa [ctrlValue, hb] using correct_toNat b off v

/-- Settles O35: the masked store combines the value the variant writes, and a one-lane combine takes its lane. -/
theorem bootlegCorrectionBeforeMask : Obligations.BootlegCorrectionBeforeMask := by
  intro s b off v
  refine ⟨⟨_, exec_ctw_eq rfl b off v s, ?_⟩, ⟨_, exec_ctw_eq rfl b off v s, ?_⟩⟩
  · rw [State.storeMasked_wordAt_addressed]
    exact ⟨loLane_combine_low _ _, hiLane_combine_low _ _⟩
  · rw [State.storeMasked_wordAt_addressed]
    exact ⟨hiLane_combine_high _ _, loLane_combine_high _ _⟩

/-! ## Palette, sprite copy and sound latch -/

/-- Settles O36: the event reads the words of its entry after the store, and emitting it leaves them. -/
theorem plwStoresAndSetsColour : Obligations.PlwStoresAndSetsColour := by
  intro s off data mask hm
  refine ⟨_, exec_plw_eq hm off data s, fun w => ?_, ?_, s.storePalette_keeps off data mask⟩
  · rw [State.storePalette_wordAt, State.storeMasked_wordAt_same]
  · simp only [State.storePalette_wordAt]
    exact s.storePalette_hist off data mask

/-- Settles O37: the answer is one state, whatever the data and the lane mask. -/
theorem dmaSnapshotsSprites : Obligations.DmaSnapshotsSprites := by
  intro s data mask hm
  refine ⟨_, exec_dma_eq hm data s, fun w => ?_, s.setMem_keeps _ _, fun data' mask' hm' => exec_dma_eq hm' data' s⟩
  rw [State.wordAt, State.setMem_mem_self, State.wordAt]

/-- Of the lane masks only the high lane's does not select the low lane (R64, R65). -/
theorem selectsLo_iff_of_lane {mask : Word} (h : isLaneMask mask = true) :
    selectsLo mask = true ↔ mask ≠ 0xFF00#16 := by
  obtain rfl | rfl | rfl := (isLaneMask_iff mask).1 h <;> decide

/-- The history after a sound-latch write under a lane mask: the latch and then the interrupt, or nothing without the low lane
(R155, R156). -/
theorem State.latchSound_hist_of_lane {mask : Word} (h : isLaneMask mask = true) (s : State) (data : Word) :
    (s.latchSound data mask).hist = s.hist ++ (if mask = 0xFF00#16 then []
      else [.soundLatch (loLane data), .soundIrq s.cfg.soundLine]) := by
  by_cases hi : mask = 0xFF00#16
  · have low : ¬ selectsLo mask = true := fun hl => (selectsLo_iff_of_lane h).1 hl hi
    rw [State.latchSound, if_neg low, if_pos hi, List.append_nil]
  · have low : selectsLo mask = true := (selectsLo_iff_of_lane h).2 hi
    rw [State.latchSound, if_pos low, if_neg hi]
    simp

/-- Settles O38: what a sound-latch write appends, with the line of the variant. -/
theorem slwEmitsLatchThenInterrupt : Obligations.SlwEmitsLatchThenInterrupt := by
  intro s data mask hm
  exact ⟨_, exec_slw_eq hm data s, s.latchSound_keeps data mask, s.latchSound_hist_of_lane hm data⟩

end Sys2Proof.Machine
end

section
/-! SUPPORT. Scroll resolve of a frame (42_frame_render.md section 2): the three modes of a layer, their rows and columns, and what
a scroll configuration depends on. -/

namespace Sys2Proof.Machine

/-! ## The scroll modes of a layer -/

section
variable {s : State} {L : Layer}

/-- Rowscroll mode wins where it is enabled (R185, R188). -/
theorem State.resolveScroll_of_rowscroll (h : s.rowscrollOn L = true) : s.resolveScroll L = s.rowscrollCfg L :=
  if_pos h

/-- Colscroll mode of a layer with a split column (R186). -/
theorem State.resolveScroll_of_colscroll {split : Nat} (hr : s.rowscrollOn L = false) (hc : s.colscrollOn L = true)
    (hs : s.cfg.colsplit L = some split) : s.resolveScroll L = s.colscrollCfg L split := by
  simp [State.resolveScroll, hr, hc, hs]

/-- Fixed mode where rowscroll is off and colscroll is off or the layer has none (R187). -/
theorem State.resolveScroll_of_fixed (hr : s.rowscrollOn L = false)
    (h : s.colscrollOn L = false ∨ s.cfg.colsplit L = none) : s.resolveScroll L = s.fixedCfg L := by
  unfold State.resolveScroll
  rw [if_neg (by simp [hr])]
  cases hs : s.cfg.colsplit L with
  | none => rfl
  | some split =>
    obtain hc | hc := h
    · simp [hc]
    · cases hs.symm.trans hc

end

/-- Settles O48: the mode bits in the order of R188, and the layers that have a split column. -/
theorem oneScrollModePerLayer : Obligations.OneScrollModePerLayer := by
  intro s L
  cases hr : s.rowscrollOn L with
  | true => exact .inl ⟨rfl, State.resolveScroll_of_rowscroll hr⟩
  | false =>
    cases hc : s.colscrollOn L with
    | false => exact .inr (.inr ⟨rfl, .inl rfl, State.resolveScroll_of_fixed hr (.inl hc)⟩)
    | true =>
      cases L with
      | pf1 => exact .inr (.inr ⟨rfl, .inr (.inl rfl), State.resolveScroll_of_fixed hr (.inr rfl)⟩)
      | pf2 => exact .inr (.inr ⟨rfl, .inr (.inr rfl), State.resolveScroll_of_fixed hr (.inr rfl)⟩)
      | pf3 => exact .inr (.inl ⟨rfl, rfl, .inl ⟨rfl, State.resolveScroll_of_colscroll hr hc rfl⟩⟩)
      | pf4 => exact .inr (.inl ⟨rfl, rfl, .inr ⟨rfl, State.resolveScroll_of_colscroll hr hc rfl⟩⟩)

/-- The row-count tables over their eight styles (R183). -/
theorem rowTables_of_lt : ∀ style, style < 8 → rows16 style = 512 >>> style ∧ rows8 style = 256 >>> style := by
  decide

/-- The row-count tables beyond their eight styles (R183). -/
theorem rowTables_of_ge {style : Nat} (h : 8 ≤ style) : rows16 style = 1 ∧ rows8 style = 1 :=
  ⟨List.getD_eq_default _ _ h, List.getD_eq_default _ _ h⟩

/-- The row count of a layer in rowscroll mode, by its table and its style (R183, R185). -/
theorem rowCount_of_lt (L : Layer) {style : Nat} (h : style < 8) :
    rowCount L style = (if L = .pf1 then 256 else 512) >>> style := by
  obtain ⟨of16, of8⟩ := rowTables_of_lt style h
  cases L with
  | pf1 => exact of8
  | pf2 | pf3 | pf4 => exact of16

/-- Settles O45: the tables entry by entry, and rowscroll mode has a row for each of its row X scrolls. -/
theorem rowCountTables : Obligations.RowCountTables := by
  refine ⟨rowTables_of_lt, fun _ => rowTables_of_ge, fun s L h => ?_⟩
  rw [State.resolveScroll_of_rowscroll h]
  exact ⟨rowCount_of_lt L (s.style L).isLt, by simp [State.rowscrollCfg]⟩

/-- Settles O46: rowscroll mode lists its rows in order. -/
theorem rowscrollAddsRowDeltas : Obligations.RowscrollAddsRowDeltas := by
  intro s L h
  rw [State.resolveScroll_of_rowscroll h]
  refine ⟨rfl, rfl, fun i hi => ⟨s.scrollX L + s.wordAt (.rs L) i, ?_, BitVec.toNat_add _ _⟩⟩
  have row : i < rowCount L (s.style L).toNat := hi
  simp [State.rowscrollCfg, row]

/-- Settles O47: colscroll mode lists its columns in order; pf1 and pf2 have no split column. -/
theorem colscrollAddsColumnDeltas : Obligations.ColscrollAddsColumnDeltas := by
  intro s L hr hc
  refine ⟨fun split hs => ?_, ?_⟩
  · rw [State.resolveScroll_of_colscroll hr hc hs]
    exact ⟨rfl, rfl, rfl, by simp [State.colscrollCfg], fun c hlt => by simp [State.colscrollCfg, colscrollBase, hlt]⟩
  · rintro (rfl | rfl)
    · exact State.resolveScroll_of_fixed hr (.inr rfl)
    · exact State.resolveScroll_of_fixed hr (.inr rfl)

/-! ## What a scroll configuration depends on -/

/-- The inputs of a layer's scroll resolve are the same in two states (R189): the configuration, its control fields and the words
of its rowscroll buffer. -/
structure SameScrollInputs (L : Layer) (s t : State) : Prop where
  cfg : t.cfg = s.cfg
  rowscrollOn : t.rowscrollOn L = s.rowscrollOn L
  colscrollOn : t.colscrollOn L = s.colscrollOn L
  style : t.style L = s.style L
  scrollX : t.scrollX L = s.scrollX L
  scrollY : t.scrollY L = s.scrollY L
  rowscroll (w : Nat) : t.wordAt (.rs L) w = s.wordAt (.rs L) w

/-- The scroll configuration of a layer depends on those inputs only (R189). -/
theorem SameScrollInputs.resolveScroll {L : Layer} {s t : State} (h : SameScrollInputs L s t) :
    t.resolveScroll L = s.resolveScroll L := by
  have row : t.rowscrollCfg L = s.rowscrollCfg L := by
    simp only [State.rowscrollCfg, h.style, h.scrollX, h.scrollY, h.rowscroll]
  have col : t.colscrollCfg L = s.colscrollCfg L := by
    funext split
    simp only [State.colscrollCfg, h.scrollX, h.scrollY, h.rowscroll]
  have fixed : t.fixedCfg L = s.fixedCfg L := by
    simp only [State.fixedCfg, h.scrollX, h.scrollY]
  simp only [State.resolveScroll, h.rowscrollOn, h.colscrollOn, h.cfg, row, col, fixed]

/-- The control fields of a layer are read from the words of its control block (R28, R189). -/
theorem SameScrollInputs.of_block {s t : State} {L : Layer} (hc : t.cfg = s.cfg)
    (hr : ∀ w, t.wordAt (.rs L) w = s.wordAt (.rs L) w)
    (hw : ∀ w, t.wordAt (.ctrl (s.slotOf L).block) w = s.wordAt (.ctrl (s.slotOf L).block) w) :
    SameScrollInputs L s t := by
  have slot : t.slotOf L = s.slotOf L := by rw [State.slotOf, hc, State.slotOf]
  have word (w : Nat) : t.layerCtrl L w = s.layerCtrl L w := by
    rw [State.layerCtrl, slot, hw, State.layerCtrl]
  refine ⟨hc, ?_, ?_, ?_, ?_, ?_, hr⟩
  · simp only [State.rowscrollOn, word, slot, hc]
  · simp only [State.colscrollOn, word, slot, hc]
  · simp only [State.style, word, slot, hc]
  · simp only [State.scrollX, word, slot, hc]
  · simp only [State.scrollY, word, slot, hc]

/-- Bit i of a word is bit i of its low lane. -/
theorem getLsbD_eq_of_loLane {v w : Word} (h : loLane v = loLane w) {i : Nat} (hi : i < 8) :
    v.getLsbD i = w.getLsbD i := by
  rw [← loLane_getLsbD v i hi, h, loLane_getLsbD w i hi]

/-- Bit 8 + i of a word is bit i of its high lane. -/
theorem getLsbD_eq_of_hiLane {v w : Word} (h : hiLane v = hiLane w) {i : Nat} (hi : i < 8) :
    v.getLsbD (8 + i) = w.getLsbD (8 + i) := by
  rw [← hiLane_getLsbD v i hi, h, hiLane_getLsbD w i hi]

theorem loLane_toNat (v : Word) : (loLane v).toNat = v.toNat % 256 := by simp [loLane]

theorem hiLane_toNat (v : Word) : (hiLane v).toNat = v.toNat / 256 % 256 := by
  simp [hiLane, Nat.shiftRight_eq_div_pow]

section DefaultLayout

variable {s t : State} {L : Layer} {b : Block} (hd : s.cfg.control = {}) (hc : t.cfg = s.cfg)
  (hr : ∀ w, t.wordAt (.rs L) w = s.wordAt (.rs L) w)
include hd hc hr

/-- In the default layout the fields of a layer in slot A are words 1 and 2 and the low lanes of words 5 and 6 of its block
(R28). -/
theorem SameScrollInputs.of_slotA (h : s.slotOf L = ⟨b, .a⟩) (h1 : t.wordAt (.ctrl b) 1 = s.wordAt (.ctrl b) 1)
    (h2 : t.wordAt (.ctrl b) 2 = s.wordAt (.ctrl b) 2)
    (h5 : loLane (t.wordAt (.ctrl b) 5) = loLane (s.wordAt (.ctrl b) 5))
    (h6 : loLane (t.wordAt (.ctrl b) 6) = loLane (s.wordAt (.ctrl b) 6)) : SameScrollInputs L s t := by
  have h' : t.slotOf L = ⟨b, .a⟩ := by rw [State.slotOf, hc]; exact h
  obtain ⟨rowS, colS, styleS, xS, yS⟩ := State.slotA_fields hd h
  obtain ⟨rowT, colT, styleT, xT, yT⟩ := State.slotA_fields (by rw [hc, hd]) h'
  refine ⟨hc, ?_, ?_, BitVec.eq_of_toNat_eq ?_, ?_, ?_, hr⟩
  · rw [rowT, rowS, getLsbD_eq_of_loLane h6 (by decide)]
  · rw [colT, colS, getLsbD_eq_of_loLane h6 (by decide)]
  · have low := congrArg BitVec.toNat h5
    rw [loLane_toNat, loLane_toNat] at low
    omega
  · rw [xT, xS, h1]
  · rw [yT, yS, h2]

/-- In the default layout the fields of a layer in slot B are words 3 and 4 and the high lanes of words 5 and 6 of its block
(R28). -/
theorem SameScrollInputs.of_slotB (h : s.slotOf L = ⟨b, .b⟩) (h3 : t.wordAt (.ctrl b) 3 = s.wordAt (.ctrl b) 3)
    (h4 : t.wordAt (.ctrl b) 4 = s.wordAt (.ctrl b) 4)
    (h5 : hiLane (t.wordAt (.ctrl b) 5) = hiLane (s.wordAt (.ctrl b) 5))
    (h6 : hiLane (t.wordAt (.ctrl b) 6) = hiLane (s.wordAt (.ctrl b) 6)) : SameScrollInputs L s t := by
  have h' : t.slotOf L = ⟨b, .b⟩ := by rw [State.slotOf, hc]; exact h
  obtain ⟨rowS, colS, styleS, xS, yS⟩ := State.slotB_fields hd h
  obtain ⟨rowT, colT, styleT, xT, yT⟩ := State.slotB_fields (by rw [hc, hd]) h'
  refine ⟨hc, ?_, ?_, BitVec.eq_of_toNat_eq ?_, ?_, ?_, hr⟩
  · rw [rowT, rowS]
    exact getLsbD_eq_of_hiLane h6 (i := 6) (by decide)
  · rw [colT, colS]
    exact getLsbD_eq_of_hiLane h6 (i := 5) (by decide)
  · have high := congrArg BitVec.toNat h5
    rw [hiLane_toNat, hiLane_toNat] at high
    omega
  · rw [xT, xS, h3]
  · rw [yT, yS, h4]

end DefaultLayout

/-- A masked store keeps the words it does not address (R140). -/
theorem State.storeMasked_wordAt_of_ne (s : State) {sp sp' : Space} {off : BitVec 17} {w : Nat} (data mask : Word)
    (h : sp' = sp → w ≠ off.toNat / 2) : (s.storeMasked sp off data mask).wordAt sp' w = s.wordAt sp' w := by
  rw [State.storeMasked_wordAt, if_neg (fun hw => h hw.1 hw.2)]

/-- A masked store of the high lane keeps every low lane (R64, R69). -/
theorem State.storeMasked_loLane_of_high (s : State) (sp : Space) (off : BitVec 17) (data : Word) (sp' : Space)
    (w : Nat) : loLane ((s.storeMasked sp off data 0xFF00#16).wordAt sp' w) = loLane (s.wordAt sp' w) := by
  rw [State.storeMasked_wordAt]
  split
  · next h => rw [loLane_combine_high, h.1]
  · rfl

/-- A masked store of the low lane keeps every high lane (R64, R69). -/
theorem State.storeMasked_hiLane_of_low (s : State) (sp : Space) (off : BitVec 17) (data : Word) (sp' : Space)
    (w : Nat) : hiLane ((s.storeMasked sp off data 0x00FF#16).wordAt sp' w) = hiLane (s.wordAt sp' w) := by
  rw [State.storeMasked_wordAt]
  split
  · next h => rw [hiLane_combine_low, h.1]
  · rfl

/-- The block, slot and lane conditions under which a control write leaves the fields of a layer in the default layout: another
block, a word that holds no field of its slot, or the other slot's lane of the style and mode words. -/
def SparesScroll (place : SlotAt) (b : Block) (word : Nat) (mask : Word) : Prop :=
  place.block ≠ b ∨
  (place.slot = .a ∧ (word ∉ [1, 2, 5, 6] ∨ (word ∈ [5, 6] ∧ mask = 0xFF00#16))) ∨
  (place.slot = .b ∧ (word ∉ [3, 4, 5, 6] ∨ (word ∈ [5, 6] ∧ mask = 0x00FF#16)))

/-- In the default layout such a control write leaves the layer's scroll configuration (R28, R189). -/
theorem State.storeMasked_ctrl_resolveScroll {s : State} {L : Layer} {b : Block} {off : BitVec 17} {mask : Word}
    (data : Word) (hd : s.cfg.control = {}) (h : SparesScroll (s.slotOf L) b (off.toNat / 2) mask) :
    (s.storeMasked (.ctrl b) off data mask).resolveScroll L = s.resolveScroll L := by
  have cfg := s.storeMasked_cfg (.ctrl b) off data mask
  have rs (w : Nat) := s.storeMasked_wordAt_of_ne (sp := .ctrl b) (sp' := .rs L) (off := off) (w := w) data mask nofun
  have word {w : Nat} (hw : w ≠ off.toNat / 2) :=
    s.storeMasked_wordAt_of_ne (sp := .ctrl b) (sp' := .ctrl b) data mask fun _ => hw
  apply SameScrollInputs.resolveScroll
  by_cases hb : (s.slotOf L).block = b
  · have slot : s.slotOf L = ⟨b, (s.slotOf L).slot⟩ := by rw [← hb]
    obtain hne | ⟨hsl, hoff | ⟨hoff, rfl⟩⟩ | ⟨hsl, hoff | ⟨hoff, rfl⟩⟩ := h
    · exact absurd hb hne
    all_goals
      rw [hsl] at slot
      simp only [List.mem_cons, List.not_mem_nil, or_false, not_or] at hoff
    · exact .of_slotA hd cfg rs slot (word (by omega)) (word (by omega)) (congrArg loLane (word (by omega)))
        (congrArg loLane (word (by omega)))
    · exact .of_slotA hd cfg rs slot (word (by omega)) (word (by omega)) (s.storeMasked_loLane_of_high _ _ _ _ _)
        (s.storeMasked_loLane_of_high _ _ _ _ _)
    · exact .of_slotB hd cfg rs slot (word (by omega)) (word (by omega)) (congrArg hiLane (word (by omega)))
        (congrArg hiLane (word (by omega)))
    · exact .of_slotB hd cfg rs slot (word (by omega)) (word (by omega)) (s.storeMasked_hiLane_of_low _ _ _ _ _)
        (s.storeMasked_hiLane_of_low _ _ _ _ _)
  · exact .of_block cfg rs fun w => s.storeMasked_wordAt_of_ne data mask fun he => absurd (Space.ctrl.inj he) hb

/-- Settles O49: a scroll configuration is a function of its inputs, and these writes leave the inputs. -/
theorem scrollDependsOnOwnBuffersOnly : Obligations.ScrollDependsOnOwnBuffersOnly := by
  refine ⟨fun s t L hc hrow hcol hst hx hy hr => ?_, fun s t L hc hw hr => ?_,
    fun s t L L' off data mask hne h => ?_, fun s t L b off data mask hd h hs => ?_⟩
  · exact SameScrollInputs.resolveScroll ⟨hc, hrow, hcol, hst, hx, hy, hr⟩
  · exact (SameScrollInputs.of_block hc hr hw).resolveScroll
  · obtain ⟨-, rfl⟩ := guardMask_eq_next.1 h
    refine (SameScrollInputs.of_block (s.storeMasked_cfg _ _ _ _) (fun w => ?_) (fun w => ?_)).resolveScroll
    · exact s.storeMasked_wordAt_of_ne data mask fun he => absurd (Space.rs.inj he) hne
    · exact s.storeMasked_wordAt_of_ne data mask nofun
  · obtain ⟨-, rfl⟩ := guardMask_eq_next.1 h
    exact State.storeMasked_ctrl_resolveScroll _ hd hs

end Sys2Proof.Machine
end

section
/-! SUPPORT. The pixels of a frame (42_frame_render.md sections 3 to 5): what a layer pass, a sprite cell and the painter draw at
a position, the bitmap, the answer of RENDER, and the flip. -/

namespace Sys2Proof.Machine

/-! ## The pen classes -/

/-- The transparent class draws the pens other than 0 (R191, D26). -/
theorem transparent_draws_iff (p : Pen) : PenClass.transparent.draws p = true ↔ p ≠ 0#4 := by
  have zero : p = 0#4 ↔ p.toNat = 0 := BitVec.toNat_eq
  rw [PenClass.draws, decide_eq_true_iff, ne_eq, zero, Nat.one_le_iff_ne_zero]

/-- The back class draws the pens 1 to 7 (R191). -/
theorem back_draws_iff (p : Pen) : PenClass.back.draws p = true ↔ 1 ≤ p.toNat ∧ p.toNat ≤ 7 := decide_eq_true_iff

/-- The front class draws the pens 8 to 15 (R191). -/
theorem front_draws_iff (p : Pen) : PenClass.front.draws p = true ↔ 8 ≤ p.toNat := decide_eq_true_iff

section
variable (rom : PenRom) (s : State) (p : LayerPass) (sx sy : Nat)

/-- A layer pass draws a position exactly where its class draws the pen there (R191). -/
theorem State.layerPixel_isSome : (s.layerPixel rom p sx sy).isSome = p.pens.draws (s.layerPen rom p sx sy) := by
  unfold State.layerPixel
  cases p.pens.draws (s.layerPen rom p sx sy) <;> rfl

/-- A layer pass draws its palette index or nothing (R190, R201). -/
theorem State.layerPixel_eq_some {v : Nat} (h : s.layerPixel rom p sx sy = some v) : v = s.layerIndex rom p sx sy := by
  unfold State.layerPixel at h
  split at h
  · exact (Option.some.inj h).symm
  · cases h

end

/-- Settles O50: the classes are disjoint, and the class of a pass does not change its pen. -/
theorem pf4PassesAreDisjoint : Obligations.Pf4PassesAreDisjoint := by
  refine ⟨fun pen => ⟨rfl, transparent_draws_iff pen, back_draws_iff pen, front_draws_iff pen⟩,
    fun rom s p sx sy => ?_⟩
  have back := State.layerPixel_isSome rom s { p with pens := .back } sx sy
  have front := State.layerPixel_isSome rom s { p with pens := .front } sx sy
  have pen (k : PenClass) : s.layerPen rom { p with pens := k } sx sy = s.layerPen rom p sx sy := rfl
  rw [← Option.not_isSome_iff_eq_none, ← Option.not_isSome_iff_eq_none, back, front, back_draws_iff, front_draws_iff,
    pen .back, pen .front]
  exact ⟨Iff.rfl, Iff.rfl, by omega⟩

/-! ## The value of a pixel -/

section
variable {k : ScrollCfg} {T sx sy : Nat} {x y : Word}

/-- The map position with one column: the row is that of the map Y (R201). -/
theorem ScrollCfg.mapPos_of_one_col (hk : k.cols = 1) (hy : k.ys[0]? = some y)
    (hx : k.xs[(sy + y.toNat) % (32 * T) * k.rows / (32 * T)]? = some x) :
    k.mapPos T sx sy = ((sx + x.toNat) % (64 * T), (sy + y.toNat) % (32 * T)) := by
  simp [ScrollCfg.mapPos, hk, List.getD_eq_getElem?_getD, hy, hx]

/-- The map position with more columns: the column is that of the map X (R201). -/
theorem ScrollCfg.mapPos_of_cols (hk : k.cols ≠ 1) (hx : k.xs[0]? = some x)
    (hy : k.ys[(sx + x.toNat) % (64 * T) / T]? = some y) :
    k.mapPos T sx sy = ((sx + x.toNat) % (64 * T), (sy + y.toNat) % (32 * T)) := by
  simp [ScrollCfg.mapPos, hk, List.getD_eq_getElem?_getD, hx, hy]

end

/-- What a layer pass draws where its map position is known (R191, R201). -/
theorem State.layerPixel_of_mapPos {rom : PenRom} {s : State} {p : LayerPass} {sx sy mx my : Nat} {word : Word} {pen : Pen}
    (hpos : p.cfg.mapPos p.tileSize sx sy = (mx, my)) (hword : word = s.tileWord p.layer p.tileSize mx my)
    (hpen : pen = rom p.region (word &&& s.cfg.tileMask) (mx % p.tileSize) (my % p.tileSize)) :
    s.layerPixel rom p sx sy =
      if p.pens.draws pen then some (p.palBase + 16 * (word.toNat / 2 ^ s.cfg.colourShift) + pen.toNat) else none := by
  have pen_eq : s.layerPen rom p sx sy = pen := by simp only [State.layerPen, hpos, hpen, hword]
  simp only [State.layerPixel, State.layerIndex, pen_eq, hpos, hword, BitVec.toNat_ushiftRight,
    Nat.shiftRight_eq_div_pow]

/-- The two-page scan (R33, D22). -/
theorem TileScan.index_twoPages {col row : Nat} (hcol : col < 64) (hrow : row < 32) :
    TileScan.twoPages.index col row = col % 32 + 32 * row + 1024 * (col / 32) := by
  have page : (col &&& 0x20) <<< 5 = (col / 32) <<< 10 := by
    revert hcol; revert col; decide
  have low : (col &&& 0x1F) = col % 32 := Nat.and_two_pow_sub_one_eq_mod col 5
  have row_low : (row &&& 0x1F) = row := (Nat.and_two_pow_sub_one_eq_mod row 5).trans (Nat.mod_eq_of_lt hrow)
  have cell : (col % 32 ||| row <<< 5) = row <<< 5 + col % 32 := by
    rw [Nat.or_comm, Nat.shiftLeft_add_eq_or_of_lt (by omega)]
  have cell_lt : row <<< 5 + col % 32 < 2 ^ 10 := by
    rw [Nat.shiftLeft_eq]
    omega
  simp only [TileScan.index, low, row_low, page, cell]
  rw [Nat.or_comm, ← Nat.shiftLeft_add_eq_or_of_lt cell_lt, Nat.shiftLeft_eq, Nat.shiftLeft_eq]
  omega

/-- A cell covers the 16 x 16 positions from its corner on (R237). -/
theorem Cell.covers_iff (c : Cell) (sx sy : Nat) :
    c.covers sx sy = true ↔ ∃ i j : Nat, i < 16 ∧ j < 16 ∧ c.x + i = sx ∧ c.y + j = sy := by
  rw [Cell.covers, decide_eq_true_iff]
  constructor
  · intro h
    exact ⟨(sx - c.x).toNat, (sy - c.y).toNat, by omega, by omega, by omega, by omega⟩
  · rintro ⟨i, j, hi, hj, hx, hy⟩
    omega

/-- The pen of a cell at the pixel (i, j) of its tile, flipped as the cell says (R237). -/
theorem Cell.pen_of_offset (rom : PenRom) {c : Cell} {sx sy i j : Nat} (hx : c.x + i = sx) (hy : c.y + j = sy) :
    c.pen rom sx sy = rom .sprites c.tile (if c.flipX then 15 - i else i) (if c.flipY then 15 - j else j) := by
  have hi : ((sx : Int) - c.x).toNat = i := by omega
  have hj : ((sy : Int) - c.y).toNat = j := by omega
  simp only [Cell.pen, hi, hj]

/-- A position a cell covers on the screen (R237). -/
theorem Cell.pixel_of_covers (rom : PenRom) (base : Nat) {c : Cell} {sx sy : Nat} (hs : onScreen sx sy = true)
    (hc : c.covers sx sy = true) :
    c.pixel rom base sx sy =
      if c.pen rom sx sy = 0#4 then none else some (base + 16 * c.colour.toNat + (c.pen rom sx sy).toNat) := by
  by_cases hp : c.pen rom sx sy = 0#4 <;> simp [Cell.pixel, hs, hc, hp]

/-- A cell draws nothing off the screen and nothing it does not cover (R237). -/
theorem Cell.pixel_of_not_covers (rom : PenRom) (base : Nat) {c : Cell} {sx sy : Nat}
    (h : ¬ (onScreen sx sy = true ∧ c.covers sx sy = true)) : c.pixel rom base sx sy = none := by
  rw [Cell.pixel, if_neg]
  simp only [Bool.and_eq_true]
  exact fun hp => h hp.1

theorem onScreen_iff (sx sy : Nat) : onScreen sx sy = true ↔ sx ≤ 255 ∧ sy ≤ 255 := decide_eq_true_iff

/-- Settles O60: the map position in its two cases, the default scan, and a cell at its covered positions and elsewhere. -/
theorem pixelValues : Obligations.PixelValues := by
  intro rom s
  refine ⟨fun p sx sy mx my hpos word pen hword hpen => ?_, fun col row => TileScan.index_twoPages,
    fun c base sx sy i j hsx hsy hi hj hx hy pen hpen => ?_, fun c base sx sy h => ?_⟩
  · refine State.layerPixel_of_mapPos ?_ hword hpen
    obtain ⟨hk, ⟨y, hy, rfl⟩, x, hx, rfl⟩ | ⟨hk, ⟨x, hx, rfl⟩, y, hy, rfl⟩ := hpos
    · exact ScrollCfg.mapPos_of_one_col hk hy hx
    · exact ScrollCfg.mapPos_of_cols hk hx hy
  · rw [hpen, ← Cell.pen_of_offset rom hx hy]
    exact Cell.pixel_of_covers rom base ((onScreen_iff sx sy).2 ⟨hsx, hsy⟩)
      ((c.covers_iff sx sy).2 ⟨i, j, hi, hj, hx, hy⟩)
  · apply Cell.pixel_of_not_covers
    rw [onScreen_iff, Cell.covers_iff]
    rintro ⟨⟨hsx, hsy⟩, i, j, hi, hj, hx, hy⟩
    obtain h | h | h := h
    · omega
    · omega
    · exact h i j hi hj ⟨hx, hy⟩

/-! ## The painter -/

/-- The last of a list of drawings covers the earlier ones where it draws (R202). -/
theorem foldl_drawOver_concat (drawn : List (Option Nat)) (last : Option Nat) :
    (drawn ++ [last]).foldl drawOver none = last.or (drawn.foldl drawOver none) := by
  simp [drawOver_eq_or]

/-- Drawings one over the other show one of them, or nothing where none draws. -/
theorem foldl_drawOver_mem {drawn : List (Option Nat)} {v : Nat} (h : drawn.foldl drawOver none = some v) :
    some v ∈ drawn := by
  induction drawn using List.reverseRecOn with
  | nil => cases h
  | append_singleton drawn last ih =>
    rw [foldl_drawOver_concat] at h
    cases last with
    | none => exact List.mem_append_left _ (ih h)
    | some w => exact List.mem_append_right _ (List.mem_singleton.2 h.symm)

/-- Where one of the drawings draws, they show something. -/
theorem foldl_drawOver_isSome {drawn : List (Option Nat)} {d : Option Nat} (hd : d ∈ drawn) (h : d.isSome = true) :
    (drawn.foldl drawOver none).isSome = true := by
  induction drawn using List.reverseRecOn with
  | nil => cases hd
  | append_singleton drawn last ih =>
    rw [foldl_drawOver_concat, Option.isSome_or, Bool.or_eq_true]
    obtain hd | hd := List.mem_append.1 hd
    · exact .inr (ih hd)
    · exact .inl (List.mem_singleton.1 hd ▸ h)

section
variable {rom : PenRom} {s : State} {sx sy : Nat}

/-- What the painter shows is what one of its passes draws (R202). -/
theorem State.paint_eq_some {passes : List Pass} {v : Nat} (h : s.paint rom passes sx sy = some v) :
    ∃ p ∈ passes, s.passPixel rom p sx sy = some v :=
  List.mem_map.1 (foldl_drawOver_mem h)

/-- The painter shows something where one of its passes draws (R202). -/
theorem State.paint_isSome {passes : List Pass} {p : Pass} (hp : p ∈ passes)
    (h : (s.passPixel rom p sx sy).isSome = true) : (s.paint rom passes sx sy).isSome = true :=
  foldl_drawOver_isSome (List.mem_map_of_mem hp) h

/-- What a sprite pass draws is what one of its cells draws (R237). -/
theorem State.passPixel_sprites_eq_some {g : Bool} {cells : List Cell} {v : Nat}
    (h : s.passPixel rom (.sprites g cells) sx sy = some v) :
    ∃ c ∈ cells, c.pixel rom s.cfg.palBaseSpr sx sy = some v :=
  List.mem_map.1 (foldl_drawOver_mem h)

/-- A sprite pass takes its cells one by one (R237). -/
theorem State.passPixel_sprites_concat (g : Bool) (cells : List Cell) (c : Cell) :
    s.passPixel rom (.sprites g (cells ++ [c])) sx sy =
      (c.pixel rom s.cfg.palBaseSpr sx sy).or (s.passPixel rom (.sprites g cells) sx sy) := by
  simp only [State.passPixel, List.map_append, List.map_cons, List.map_nil, foldl_drawOver_concat]

/-- The passes of a frame draw every position: the first of them draws every pen (R193, R202). -/
theorem State.paint_renderPasses_isSome : (s.paint rom s.renderPasses sx sy).isSome = true := by
  have first : s.layerPass .pf2 .opaquePens ∈ s.renderPasses := List.mem_cons_self
  exact State.paint_isSome first (State.layerPixel_isSome rom s _ sx sy)

end

/-- A screen position shows what the painter has at some position (R200). -/
theorem State.pixel_eq_paint (rom : PenRom) (s : State) (passes : List Pass) (f : Bool) (sx sy : Nat) :
    ∃ px py, s.pixel rom passes f sx sy = s.paint rom passes px py := by
  cases f with
  | false => exact ⟨sx, sy, rfl⟩
  | true => exact ⟨255 - sx, 255 - sy, rfl⟩

/-! ## The range of a palette index -/

section
variable {c : Config} (h : c.wellFormed = true)
include h

/-- The bound of log entry 33 in a configuration that meets the constraints. -/
theorem paletteFits_of_wellFormed : c.paletteFits = true := by
  simp only [Config.wellFormed, Bool.and_eq_true] at h
  exact h.2

/-- The bound for a layer (R198, log entry 33). -/
theorem layerPalette_lt (L : Layer) :
    c.palBase.get L + 16 * (0xFFFF >>> c.colourShift) + 15 < c.paletteEntries := by
  have fits := paletteFits_of_wellFormed h
  simp only [Config.paletteFits, Bool.and_eq_true, List.all_eq_true, decide_eq_true_eq] at fits
  exact fits.1 L (by cases L <;> decide)

/-- The bound for the sprites (R198, log entry 33). -/
theorem spritePalette_lt : c.palBaseSpr + 16 * 31 + 15 < c.paletteEntries := by
  have fits := paletteFits_of_wellFormed h
  simp only [Config.paletteFits, Bool.and_eq_true, decide_eq_true_eq] at fits
  exact fits.2

end

/-- The palette index of a layer pass is at most its base plus the largest colour and pen (R201). -/
theorem State.layerIndex_le (rom : PenRom) (s : State) (p : LayerPass) (sx sy : Nat) :
    s.layerIndex rom p sx sy ≤ p.palBase + 16 * (0xFFFF >>> s.cfg.colourShift) + 15 := by
  have colour_le (w : Word) : (w >>> s.cfg.colourShift).toNat ≤ 0xFFFF >>> s.cfg.colourShift := by
    rw [BitVec.toNat_ushiftRight, Nat.shiftRight_eq_div_pow, Nat.shiftRight_eq_div_pow]
    exact Nat.div_le_div_right (Nat.le_of_lt_succ w.isLt)
  have pen_le : (s.layerPen rom p sx sy).toNat ≤ 15 := Nat.le_of_lt_succ (s.layerPen rom p sx sy).isLt
  exact Nat.add_le_add (Nat.add_le_add_left (Nat.mul_le_mul_left 16 (colour_le _)) _) pen_le

/-- The palette index of a cell is at most its base plus the largest colour and pen (R237). -/
theorem Cell.pixel_le {rom : PenRom} {base : Nat} {c : Cell} {sx sy v : Nat} (h : c.pixel rom base sx sy = some v) :
    v ≤ base + 16 * 31 + 15 := by
  have colour_lt := c.colour.isLt
  have pen_lt := (c.pen rom sx sy).isLt
  unfold Cell.pixel at h
  split at h
  · obtain rfl := Option.some.inj h
    omega
  · cases h

/-- The passes of a frame: a layer pass with its layer's palette base, or a sprite pass (R190, R193). -/
theorem State.renderPasses_cases {s : State} {p : Pass} (hp : p ∈ s.renderPasses) :
    (∃ L k, p = s.layerPass L k) ∨ ∃ g, p = s.spritePass g := by
  simp only [State.renderPasses, List.mem_cons, List.not_mem_nil, or_false] at hp
  obtain rfl | rfl | rfl | rfl | rfl | rfl | rfl := hp
  exacts [.inl ⟨_, _, rfl⟩, .inl ⟨_, _, rfl⟩, .inl ⟨_, _, rfl⟩, .inr ⟨_, rfl⟩, .inl ⟨_, _, rfl⟩, .inr ⟨_, rfl⟩,
    .inl ⟨_, _, rfl⟩]

/-- What a frame shows is in the range of R198, in a configuration that meets the constraints. -/
theorem State.paint_renderPasses_lt {rom : PenRom} {s : State} (hw : s.cfg.wellFormed = true) {sx sy v : Nat}
    (h : s.paint rom s.renderPasses sx sy = some v) : v < s.cfg.paletteEntries := by
  obtain ⟨p, hp, hv⟩ := State.paint_eq_some h
  obtain ⟨L, k, rfl⟩ | ⟨g, rfl⟩ := State.renderPasses_cases hp
  · rw [State.layerPixel_eq_some rom s _ sx sy hv]
    exact Nat.lt_of_le_of_lt (State.layerIndex_le rom s _ sx sy) (layerPalette_lt hw L)
  · obtain ⟨c, -, hc⟩ := State.passPixel_sprites_eq_some hv
    exact Nat.lt_of_le_of_lt (Cell.pixel_le hc) (spritePalette_lt hw)

/-! ## The bitmap -/

section
variable (rom : PenRom) (s : State) (passes : List Pass) (f : Bool)

theorem State.bitmap_length : (s.bitmap rom passes f).length = min s.cfg.vis.y1 255 + 1 - s.cfg.vis.y0 := by
  simp [State.bitmap]

theorem State.bitmap_row_length {row : List (Option Nat)} (h : row ∈ s.bitmap rom passes f) :
    row.length = min s.cfg.vis.x1 255 + 1 - s.cfg.vis.x0 := by
  obtain ⟨sy, -, rfl⟩ := List.mem_map.1 h
  simp

/-- The bitmap has the pixel of each position of the window in its row and column (R198, R200). -/
theorem State.bitmap_getElem? {i j : Nat} (hi : s.cfg.vis.y0 + i ≤ min s.cfg.vis.y1 255)
    (hj : s.cfg.vis.x0 + j ≤ min s.cfg.vis.x1 255) :
    ∃ row, (s.bitmap rom passes f)[i]? = some row ∧
      row[j]? = some (s.pixel rom passes f (s.cfg.vis.x0 + j) (s.cfg.vis.y0 + i)) := by
  refine ⟨_, by rw [State.bitmap, List.getElem?_map, span_getElem? hi]; rfl, ?_⟩
  rw [List.getElem?_map, span_getElem? hj]
  rfl

/-- Every entry of the bitmap is the painter's at some position. -/
theorem State.bitmap_mem {row : List (Option Nat)} (hr : row ∈ s.bitmap rom passes f) {px : Option Nat} (hp : px ∈ row) :
    ∃ sx sy, px = s.paint rom passes sx sy := by
  obtain ⟨sy, -, rfl⟩ := List.mem_map.1 hr
  obtain ⟨sx, -, rfl⟩ := List.mem_map.1 hp
  exact s.pixel_eq_paint rom passes f sx sy

end

/-- Settles O51: the opaque pass draws everywhere, and what shows is the index of one pass. -/
theorem everyPixelIsDefined : Obligations.EveryPixelIsDefined := by
  intro rom s
  refine ⟨fun sx sy => State.paint_renderPasses_isSome,
    fun sx sy => ⟨rfl, fun passes p => s.paint_append rom passes p sx sy, fun lp => rfl, fun g => rfl,
      State.passPixel_sprites_concat⟩,
    fun passes sx sy => ⟨rfl, rfl⟩,
    fun passes f => ⟨s.bitmap_length rom passes f, fun row => s.bitmap_row_length rom passes f,
      fun i j => s.bitmap_getElem? rom passes f⟩, fun row hr px hp => ?_⟩
  obtain ⟨sx, sy, rfl⟩ := s.bitmap_mem rom _ _ hr hp
  have defined := s.paint_renderPasses_isSome (rom := rom) (sx := sx) (sy := sy)
  refine ⟨defined, fun hw => ?_⟩
  obtain ⟨v, hv⟩ := Option.isSome_iff_exists.1 defined
  exact ⟨v, hv, State.paint_renderPasses_lt hw hv⟩

/-! ## RENDER -/

/-- Settles O43: RENDER answers the state after the frame. -/
theorem renderEmitsPlanThenBitmap : Obligations.RenderEmitsPlanThenBitmap := by
  intro s
  exact ⟨s.rendered, s.renderPasses, rfl, rfl, s.rendered_hist, s.rendered_frame, s.rendered_usedSprColours,
    s.rendered_keeps⟩

/-- An entry counts for a colour's use where it is present, inside the X range, and of that colour (R196). -/
theorem State.usesColour_iff (s : State) (col : BitVec 5) (e : Nat) :
    s.usesColour col e = true ↔ s.spriteTile e ≠ 0#16 ∧ s.spriteX e ≤ 256 ∧ s.spriteColour e = col := by
  simp [State.usesColour, State.spriteAbsent, State.spriteOffX, and_assoc]

/-- Settles O58: the scan goes over all 32 colours and all entries. -/
theorem usedColoursAreVisibleEntries : Obligations.UsedColoursAreVisibleEntries := by
  intro s col
  have listed : col ∈ (List.range 32).map (BitVec.ofNat 5) :=
    List.mem_map.2 ⟨col.toNat, List.mem_range.2 col.isLt, BitVec.ofNat_toNat ..⟩
  simp only [State.usedColours, List.mem_filter, listed, true_and, List.any_eq_true, List.mem_range,
    State.usesColour_iff]

/-! ## The flip -/

section
variable {s t : State} (hc : t.cfg = s.cfg)
include hc

/-- `DrawSprites` reads the configuration, FRAME and `SPR_BUF` only (R230 to R236). -/
theorem State.drawSprites_congr (hf : t.frame = s.frame) (hw : ∀ w, t.wordAt .sprBuf w = s.wordAt .sprBuf w) (g : Bool) :
    t.drawSprites g = s.drawSprites g := by
  have field (e : Nat) (f : FieldAt) (width : Nat) : t.spriteField e f width = s.spriteField e f width := by
    simp only [State.spriteField, hw]
  have tile : t.spriteTile = s.spriteTile := by
    funext e
    simp only [State.spriteTile, field, hc]
  have height : t.spriteHeight = s.spriteHeight := by
    funext e
    simp only [State.spriteHeight, field, hc]
  have flipY : t.spriteFlipY = s.spriteFlipY := by
    funext e
    simp only [State.spriteFlipY, field, hc]
  have base : t.spriteBase = s.spriteBase := by
    funext e
    unfold State.spriteBase
    rw [tile, height, flipY, hc]
  have x : t.spriteX = s.spriteX := by
    funext e
    simp only [State.spriteX, field, hc]
  have cell : t.spriteCell = s.spriteCell := by
    funext e k
    unfold State.spriteCell State.spriteColour State.spriteFlipX State.spriteY
    rw [base, flipY, x, hc, field, field, field]
  have offX : t.spriteOffX = s.spriteOffX := by
    funext e
    rw [State.spriteOffX, x, State.spriteOffX]
  have skipped : t.spriteSkipped = s.spriteSkipped := by
    funext g e
    simp only [State.spriteSkipped, State.spriteAbsent, State.spritePriority, State.spriteStrobed, State.spriteFlash,
      tile, field, offX, hf, hc]
  unfold State.drawSprites State.entryCells
  rw [skipped, height, cell, hc]

/-- A layer's region reads the configuration and control_0's words only (R29, R182). -/
theorem State.region_congr (hw : ∀ w, t.wordAt (.ctrl .c0) w = s.wordAt (.ctrl .c0) w) : t.region = s.region := by
  have pf2 : t.bankPf2 = s.bankPf2 := by simp only [State.bankPf2, hw, hc]
  have pf3 : t.bankPf3 = s.bankPf3 := by simp only [State.bankPf3, hw, hc]
  funext L
  unfold State.region
  rw [pf2, pf3, hc]

/-- The painter reads the configuration and the tile data beside its passes (R201, R237). -/
theorem State.paint_congr (hw : ∀ L w, t.wordAt (.td L) w = s.wordAt (.td L) w) (rom : PenRom) (passes : List Pass) :
    t.paint rom passes = s.paint rom passes := by
  have pen : t.layerPen rom = s.layerPen rom := by
    funext p sx sy
    simp only [State.layerPen, State.tileWord, hw, hc]
  have index : t.layerIndex rom = s.layerIndex rom := by
    funext p sx sy
    simp only [State.layerIndex, State.tileWord, hw, hc, pen]
  have pass : t.passPixel rom = s.passPixel rom := by
    funext p sx sy
    unfold State.passPixel State.layerPixel
    rw [pen, index, hc]
  funext sx sy
  rw [State.paint, pass, State.paint]

end

/-- A write to control_1's word 0 leaves the passes of a frame in the default layout, where the word holds no field of a layer
(R28, R203). -/
theorem State.storeMasked_flipWord_renderPasses {s : State} (hd : s.cfg.control = {}) (data mask : Word) :
    (s.storeMasked (.ctrl .c1) 0x00#17 data mask).renderPasses = s.renderPasses := by
  have scroll (L : Layer) :
      (s.storeMasked (.ctrl .c1) 0x00#17 data mask).resolveScroll L = s.resolveScroll L := by
    refine State.storeMasked_ctrl_resolveScroll data hd (.inr ?_)
    cases (s.slotOf L).slot with
    | a => exact .inl ⟨rfl, .inl (by decide)⟩
    | b => exact .inr ⟨rfl, .inl (by decide)⟩
  have cfg := s.storeMasked_cfg (.ctrl .c1) 0x00#17 data mask
  have region := State.region_congr cfg fun w => s.storeMasked_wordAt_of_ne data mask nofun
  have cells := State.drawSprites_congr cfg (s.storeMasked_frame _ _ _ _) fun w =>
    s.storeMasked_wordAt_of_ne data mask nofun
  simp only [State.renderPasses, State.layerPass, State.spritePass, scroll, region, cells, cfg]

/-- The two flips of a screen are mirrors of each other (R200, R203). -/
theorem State.pixel_not (rom : PenRom) (s : State) (passes : List Pass) (f : Bool) {sx sy : Nat} (hx : sx ≤ 255)
    (hy : sy ≤ 255) : s.pixel rom passes (!f) sx sy = s.pixel rom passes f (255 - sx) (255 - sy) := by
  cases f with
  | false => rfl
  | true => simp [State.pixel, Nat.sub_sub_self hx, Nat.sub_sub_self hy]

/-- Settles O52: the write leaves the passes and the tile data, and turns the flag round. -/
theorem flipMirrorsTheScreen : Obligations.FlipMirrorsTheScreen := by
  intro rom s t data mask hd h hne
  obtain ⟨-, rfl⟩ := guardMask_eq_next.1 h
  have passes := State.storeMasked_flipWord_renderPasses hd (ctrlValue s.cfg .c1 0x00#17 data) mask
  refine ⟨passes, s.storeMasked_frame _ _ _ _, fun sx sy hx hy => ?_⟩
  have paint := State.paint_congr (s.storeMasked_cfg (.ctrl .c1) 0x00#17 (ctrlValue s.cfg .c1 0x00#17 data) mask)
    (fun L w => s.storeMasked_wordAt_of_ne _ mask nofun) rom s.renderPasses
  rw [passes, Bool.eq_not_of_ne hne, ← State.pixel_not rom s _ _ hx hy]
  simp only [State.pixel, paint]

end Sys2Proof.Machine
end

section
/-! SUPPORT. The sprite layer (43_sprites.md): the fields and derived values of an entry, the entries a pass skips, the cells of an
entry, what these depend on, and the draw call under flip. -/

namespace Sys2Proof.Machine

/-! ## The fields of an entry -/

/-- The signed 9-bit value is the one from -256 to 255 that its bits give mod 512 (R231). -/
theorem s9_spec (v : BitVec 9) : -256 ≤ s9 v ∧ s9 v ≤ 255 ∧ s9 v % 512 = v.toNat := by
  have lt : v.toNat < 512 := v.isLt
  unfold s9
  split <;> omega

/-- A field of one bit is that bit (R230). -/
theorem extractLsb'_one_beq (v : Word) (k : Nat) : (v.extractLsb' k 1 == 1#1) = v.getLsbD k := by
  have bit : v.extractLsb' k 1 = BitVec.ofBool (v.getLsbD k) := by
    apply BitVec.eq_of_getLsbD_eq
    intro i hi
    obtain rfl : i = 0 := by omega
    simp
  rw [bit]
  cases v.getLsbD k <;> rfl

/-- A field in numbers (R230). -/
theorem State.spriteField_toNat (s : State) (e : Nat) (f : FieldAt) (width : Nat) :
    (s.spriteField e f width).toNat = (s.wordAt .sprBuf (4 * e + f.word)).toNat / 2 ^ f.lsb % 2 ^ width := by
  rw [State.spriteField, BitVec.extractLsb'_toNat, Nat.shiftRight_eq_div_pow]

/-- A translated coordinate is from -15 to 496 (R231). -/
theorem translated_bounds (v : BitVec 9) : -15 ≤ 240 - s9 v ∧ 240 - s9 v ≤ 496 := by
  obtain ⟨lo, hi, -⟩ := s9_spec v
  omega

/-- The height factor is a power of two up to 8 (R231). -/
theorem State.spriteHeight_eq (s : State) (e : Nat) :
    s.spriteHeight e = 2 ^ (s.spriteField e s.cfg.sprite.height 2).toNat := by
  rw [State.spriteHeight, Nat.one_shiftLeft]

section DefaultLayout

variable {s : State} (hd : s.cfg.sprite = {}) (e : Nat)
include hd

/-- The raw X of an entry in the default layout (R230, D27). -/
theorem State.rawX_toNat :
    (s.spriteField e s.cfg.sprite.x 9).toNat = (s.wordAt .sprBuf (4 * e + 2)).toNat % 512 := by
  rw [State.spriteField_toNat, hd, Nat.pow_zero, Nat.div_one]
  rfl

/-- The raw Y of an entry in the default layout (R230, D27). -/
theorem State.rawY_toNat :
    (s.spriteField e s.cfg.sprite.y 9).toNat = (s.wordAt .sprBuf (4 * e)).toNat % 512 := by
  rw [State.spriteField_toNat, hd, Nat.pow_zero, Nat.div_one]
  rfl

/-- The masked tile of an entry in the default layout (R231, D27). -/
theorem State.spriteTile_default : s.spriteTile e = s.wordAt .sprBuf (4 * e + 1) &&& s.cfg.spriteMask := by
  rw [State.spriteTile, State.spriteField, hd]
  congr 1
  exact BitVec.eq_of_toNat_eq (by simp)

end DefaultLayout

/-- Settles O53: each field is its bits of its word, and the coordinates are translated signed values. -/
theorem spriteDerivedValues : Obligations.SpriteDerivedValues := by
  intro s e hd
  have bit (f : FieldAt) : (s.spriteField e f 1 == 1#1) = (s.wordAt .sprBuf (4 * e + f.word)).getLsbD f.lsb :=
    extractLsb'_one_beq _ _
  obtain ⟨xlo, xhi, xmod⟩ := s9_spec (s.spriteField e s.cfg.sprite.x 9)
  obtain ⟨ylo, yhi, ymod⟩ := s9_spec (s.spriteField e s.cfg.sprite.y 9)
  rw [State.rawX_toNat hd] at xmod
  rw [State.rawY_toNat hd] at ymod
  refine ⟨?_, ?_, ?_, ?_, ?_, State.spriteTile_default hd e, ⟨_, rfl, xlo, xhi, xmod⟩, ⟨_, rfl, ylo, yhi, ymod⟩, ?_,
    (translated_bounds _).1, (translated_bounds _).2, translated_bounds _⟩
  · rw [State.spriteFlash, bit, hd]; rfl
  · rw [State.spriteFlipX, bit, hd]; rfl
  · rw [State.spriteFlipY, bit, hd]; rfl
  · rw [State.spritePriority, bit, hd]
  · rw [State.spriteColour, State.spriteField_toNat, hd]; rfl
  · rw [State.spriteHeight_eq, State.spriteField_toNat, hd]; rfl

/-! ## The entries a pass skips -/

/-- The X reject (R235). -/
theorem State.spriteOffX_iff (s : State) (e : Nat) : s.spriteOffX e = true ↔ 256 < s.spriteX e := decide_eq_true_iff

/-- Settles O56: X is beyond 256 where the signed value of the raw X is below -16. -/
theorem xRejectRawRange : Obligations.XRejectRawRange := by
  intro s e hd
  obtain ⟨lo, hi, mod⟩ := s9_spec (s.spriteField e s.cfg.sprite.x 9)
  rw [State.rawX_toNat hd] at mod
  rw [State.spriteOffX_iff, State.spriteX]
  omega

/-- An entry is drawn in the pass of group g (R232 to R235): present, of the group, not strobed in this frame, and not beyond
X 256. -/
def State.SpriteDrawn (s : State) (g : Bool) (e : Nat) : Prop :=
  s.spriteTile e ≠ 0#16 ∧ s.spritePriority e = g ∧ ¬ (s.spriteFlash e = true ∧ s.frame % 2 = 1) ∧ s.spriteX e ≤ 256

/-- A pass skips the entries it does not draw (R232 to R235). -/
theorem State.spriteSkipped_eq_false_iff (s : State) (g : Bool) (e : Nat) :
    s.spriteSkipped g e = false ↔ s.SpriteDrawn g e := by
  simp [State.spriteSkipped, State.spriteAbsent, State.spriteStrobed, State.spriteOffX, State.SpriteDrawn, and_assoc]

/-- An absent entry puts no cell into any pass (R232). -/
theorem State.entryCells_of_tile_zero {s : State} {e : Nat} (h : s.spriteTile e = 0#16) (g : Bool) :
    s.entryCells g e = [] := by
  simp [State.entryCells, State.spriteSkipped, State.spriteAbsent, h]

/-- An absent entry uses no colour (R196, R232). -/
theorem State.usesColour_of_tile_zero {s : State} {e : Nat} (h : s.spriteTile e = 0#16) (col : BitVec 5) :
    s.usesColour col e = false := by
  simp [State.usesColour, State.spriteAbsent, h]

/-! ## The cells of a pass -/

/-- The cells of an entry that is drawn, in ascending k (R236). -/
theorem State.entryCells_of_not_skipped {s : State} {g : Bool} {e : Nat} (h : s.spriteSkipped g e = false) :
    s.entryCells g e = (List.range (s.spriteHeight e)).map (s.spriteCell e) := by
  rw [State.entryCells, if_neg (by simp [h])]

/-- A cell of an entry is one of its cells k below the height factor, where the entry is drawn (R236). -/
theorem State.mem_entryCells_iff (s : State) (g : Bool) (e : Nat) (c : Cell) :
    c ∈ s.entryCells g e ↔ ∃ k, k < s.spriteHeight e ∧ c = s.spriteCell e k ∧ s.SpriteDrawn g e := by
  rw [← s.spriteSkipped_eq_false_iff]
  cases h : s.spriteSkipped g e with
  | true => simp [State.entryCells, h]
  | false => simp [State.entryCells_of_not_skipped h, eq_comm]

/-- The cells of the first n entries in the pass of group g, in ascending entry index (R236, D30). -/
def State.cellsUpTo (s : State) (g : Bool) (n : Nat) : List Cell := (List.range n).flatMap (s.entryCells g)

/-- One more entry puts its cells after those of the entries before it (R236, D30). -/
theorem State.cellsUpTo_succ (s : State) (g : Bool) (e : Nat) :
    s.cellsUpTo g (e + 1) = s.cellsUpTo g e ++ s.entryCells g e := by
  simp [State.cellsUpTo, List.range_succ]

/-- Settles O54: the pass is the list of the cells of all its entries, and an entry that is not drawn has none. -/
theorem drawSpritesListsVisibleCells : Obligations.DrawSpritesListsVisibleCells := by
  intro s g
  refine ⟨fun c => ?_, s.cellsUpTo g, rfl, rfl, fun e => ?_⟩
  · simp only [State.drawSprites, List.mem_flatMap, List.mem_range, State.mem_entryCells_iff, ← exists_and_left]
    rfl
  · rw [State.cellsUpTo_succ]
    congr 1
    split
    · next h => exact State.entryCells_of_not_skipped ((s.spriteSkipped_eq_false_iff g e).2 h)
    · next h =>
      have skipped : s.spriteSkipped g e = true := by
        rw [← Bool.not_eq_false, s.spriteSkipped_eq_false_iff]
        exact h
      exact if_pos skipped

/-! ## Tall sprites -/

/-- Clearing the low c bits of a tile number rounds it down to a multiple of 2^c. -/
theorem and_not_two_pow_sub_one_toNat (v : Word) (c : Nat) :
    (v &&& ~~~(BitVec.ofNat 16 (2 ^ c - 1))).toNat = v.toNat - v.toNat % 2 ^ c := by
  have cleared : v &&& ~~~(BitVec.ofNat 16 (2 ^ c - 1)) = v >>> c <<< c := by
    apply BitVec.eq_of_getLsbD_eq
    intro i hi
    simp only [BitVec.getLsbD_and, BitVec.getLsbD_not, BitVec.getLsbD_ofNat, Nat.testBit_two_pow_sub_one,
      BitVec.getLsbD_shiftLeft, BitVec.getLsbD_ushiftRight, hi, decide_true, Bool.true_and]
    by_cases hc : i < c
    · simp [hc]
    · simp [hc, Nat.add_sub_cancel' (Nat.le_of_not_lt hc)]
  have split := Nat.div_add_mod v.toNat (2 ^ c)
  have lt := v.isLt
  rw [cleared, BitVec.toNat_shiftLeft, BitVec.toNat_ushiftRight, Nat.shiftLeft_eq, Nat.shiftRight_eq_div_pow,
    Nat.mul_comm, Nat.mod_eq_of_lt (by omega)]
  omega

section
variable {s : State} {e k : Nat}

/-- The tile of cell k without alignment (R236, D29, D51). -/
theorem State.spriteCell_tile_of_unaligned (ha : s.cfg.sprTileAlign = false) :
    ((s.spriteCell e k).tile.toNat : Int) =
      ((s.spriteTile e).toNat + (if s.spriteFlipY e then (k : Int) else -k)) % 65536 := by
  have lt := (s.spriteTile e).isLt
  have base : s.spriteBase e = s.spriteTile e := by simp [State.spriteBase, ha]
  cases hf : s.spriteFlipY e with
  | true =>
    simp only [State.spriteCell, base, hf, if_true, BitVec.toNat_add, BitVec.toNat_ofNat]
    omega
  | false =>
    simp only [State.spriteCell, base, hf, Bool.false_eq_true, if_false, BitVec.toNat_sub, BitVec.toNat_ofNat]
    omega

/-- An entry's aligned block of tiles lies in the 16-bit tile numbers (R236, D29). -/
theorem State.alignedTile_add_spriteHeight_le (s : State) (e : Nat) :
    (s.spriteTile e).toNat - (s.spriteTile e).toNat % s.spriteHeight e + s.spriteHeight e ≤ 65536 := by
  have tile_lt : (s.spriteTile e).toNat < 65536 := (s.spriteTile e).isLt
  have code_lt : (s.spriteField e s.cfg.sprite.height 2).toNat < 4 := (s.spriteField e s.cfg.sprite.height 2).isLt
  rw [State.spriteHeight_eq]
  generalize (s.spriteField e s.cfg.sprite.height 2).toNat = code at code_lt ⊢
  interval_cases code <;> omega

/-- The base tile with alignment: the first tile of the entry's aligned block with Y-flip, its last without (R236, D29). -/
theorem State.spriteBase_toNat_of_aligned (ha : s.cfg.sprTileAlign = true) :
    (s.spriteBase e).toNat = (s.spriteTile e).toNat - (s.spriteTile e).toNat % s.spriteHeight e +
      if s.spriteFlipY e then 0 else s.spriteHeight e - 1 := by
  have positive : 0 < s.spriteHeight e := by
    rw [State.spriteHeight_eq]
    exact Nat.two_pow_pos _
  have block := s.alignedTile_add_spriteHeight_le e
  have first : (s.spriteTile e &&& ~~~(BitVec.ofNat 16 (s.spriteHeight e - 1))).toNat =
      (s.spriteTile e).toNat - (s.spriteTile e).toNat % s.spriteHeight e := by
    rw [State.spriteHeight_eq]
    exact and_not_two_pow_sub_one_toNat _ _
  cases hf : s.spriteFlipY e with
  | true => simp [State.spriteBase, ha, hf, first]
  | false =>
    simp only [State.spriteBase, ha, hf, if_true, Bool.false_eq_true, if_false, BitVec.toNat_add, BitVec.toNat_ofNat,
      first]
    omega

/-- The tile of cell k with alignment is one of the entry's aligned block (R236, D29). -/
theorem State.spriteCell_tile_of_aligned (ha : s.cfg.sprTileAlign = true) (hk : k < s.spriteHeight e) :
    (s.spriteCell e k).tile.toNat = (s.spriteTile e).toNat - (s.spriteTile e).toNat % s.spriteHeight e +
      if s.spriteFlipY e then k else s.spriteHeight e - 1 - k := by
  have base := State.spriteBase_toNat_of_aligned (e := e) ha
  have block := s.alignedTile_add_spriteHeight_le e
  cases hf : s.spriteFlipY e with
  | true =>
    simp only [hf, if_true] at base
    simp only [State.spriteCell, hf, if_true, BitVec.toNat_add, BitVec.toNat_ofNat, base]
    omega
  | false =>
    simp only [hf, Bool.false_eq_true, if_false] at base
    simp only [State.spriteCell, hf, Bool.false_eq_true, if_false, BitVec.toNat_sub, BitVec.toNat_ofNat, base]
    omega

end

/-- Settles O55: the cells of an entry that is drawn are its cells k in order. -/
theorem tallSpritesStackCells : Obligations.TallSpritesStackCells := by
  intro s g e h
  rw [State.entryCells_of_not_skipped h]
  refine ⟨by simp, fun k hk => ⟨s.spriteCell e k, by simp [hk], rfl, rfl, rfl, rfl, rfl,
    State.spriteCell_tile_of_unaligned, fun ha => State.spriteCell_tile_of_aligned ha hk⟩⟩

/-! ## What an entry's cells and colour depend on -/

/-- The derived values of an entry are the same in two states (R230, R231), with the parameters and the counter that its cells
read beside them. -/
structure SameSprite (e : Nat) (s t : State) : Prop where
  cfg : t.cfg = s.cfg
  frame : t.frame = s.frame
  tile : t.spriteTile e = s.spriteTile e
  colour : t.spriteColour e = s.spriteColour e
  x : t.spriteX e = s.spriteX e
  y : t.spriteY e = s.spriteY e
  height : t.spriteHeight e = s.spriteHeight e
  flash : t.spriteFlash e = s.spriteFlash e
  flipX : t.spriteFlipX e = s.spriteFlipX e
  flipY : t.spriteFlipY e = s.spriteFlipY e
  priority : t.spritePriority e = s.spritePriority e

/-- The fields of a sprite layout (R230). -/
def spriteFields (k : SpriteLayout) : List FieldAt :=
  [k.y, k.height, k.flash, k.flipX, k.flipY, k.tile, k.x, k.colour, k.priority]

/-- The derived values of an entry are read from the words of its fields (R230, R231). -/
theorem SameSprite.of_words {e : Nat} {s t : State} (hc : t.cfg = s.cfg) (hf : t.frame = s.frame)
    (hw : ∀ f ∈ spriteFields s.cfg.sprite, t.wordAt .sprBuf (4 * e + f.word) = s.wordAt .sprBuf (4 * e + f.word)) :
    SameSprite e s t := by
  have field (f : FieldAt) (h : f ∈ spriteFields s.cfg.sprite) (width : Nat) :
      t.spriteField e f width = s.spriteField e f width := by
    rw [State.spriteField, hw f h, State.spriteField]
  simp only [spriteFields, List.forall_mem_cons, List.not_mem_nil, false_imp_iff, implies_true, and_true] at field
  obtain ⟨y, height, flash, flipX, flipY, tile, x, colour, priority⟩ := field
  refine ⟨hc, hf, ?_, ?_, ?_, ?_, ?_, ?_, ?_, ?_, ?_⟩
  · rw [State.spriteTile, hc, tile, State.spriteTile]
  · rw [State.spriteColour, hc, colour, State.spriteColour]
  · rw [State.spriteX, hc, x, State.spriteX]
  · rw [State.spriteY, hc, y, State.spriteY]
  · rw [State.spriteHeight, hc, height, State.spriteHeight]
  · rw [State.spriteFlash, hc, flash, State.spriteFlash]
  · rw [State.spriteFlipX, hc, flipX, State.spriteFlipX]
  · rw [State.spriteFlipY, hc, flipY, State.spriteFlipY]
  · rw [State.spritePriority, hc, priority, State.spritePriority]

section
variable {e : Nat} {s t : State} (h : SameSprite e s t)
include h

/-- The cells of an entry in a pass (R232 to R236) depend on those values only. -/
theorem SameSprite.entryCells (g : Bool) : t.entryCells g e = s.entryCells g e := by
  have skipped : t.spriteSkipped g e = s.spriteSkipped g e := by
    simp only [State.spriteSkipped, State.spriteAbsent, State.spriteStrobed, State.spriteOffX, h.tile, h.priority,
      h.flash, h.frame, h.x]
  have base : t.spriteBase e = s.spriteBase e := by
    simp only [State.spriteBase, h.cfg, h.tile, h.height, h.flipY]
  have cell : t.spriteCell e = s.spriteCell e := by
    funext k
    simp only [State.spriteCell, base, h.colour, h.flipX, h.flipY, h.x, h.y]
  rw [State.entryCells, skipped, h.height, cell, State.entryCells]

/-- The colour an entry uses (R196) depends on those values only. -/
theorem SameSprite.usesColour (col : BitVec 5) : t.usesColour col e = s.usesColour col e := by
  simp only [State.usesColour, State.spriteAbsent, State.spriteOffX, h.tile, h.x, h.colour]

end

/-- The used colours (R196) depend on what each entry uses. -/
theorem State.usedColours_congr {s t : State} (hc : t.cfg = s.cfg) (h : ∀ col e, t.usesColour col e = s.usesColour col e) :
    t.usedColours = s.usedColours := by
  have uses : t.usesColour = s.usesColour := funext fun col => funext (h col)
  rw [State.usedColours, uses, hc, State.usedColours]

/-- Settles O57: an entry with tile 0 has no cell and no colour in either state, and every other entry is the same in both. -/
theorem zeroTileEntryIsInvisible : Obligations.ZeroTileEntryIsInvisible := by
  intro s t e hd hc hf hw hs ht
  have other {e' : Nat} (hne : e' ≠ e) : SameSprite e' s t := by
    refine .of_words hc hf fun f hmem => hw _ ?_
    have word_lt : ∀ f ∈ spriteFields {}, f.word < 4 := by decide
    have := word_lt f (hd ▸ hmem)
    omega
  refine ⟨fun g => ?_, State.usedColours_congr hc fun col e' => ?_⟩
  · have cells : t.entryCells g = s.entryCells g := by
      funext e'
      by_cases he : e' = e
      · rw [he, State.entryCells_of_tile_zero hs, State.entryCells_of_tile_zero ht]
      · exact (other he).entryCells g
    rw [State.drawSprites, cells, hc, State.drawSprites]
  · by_cases he : e' = e
    · rw [he, State.usesColour_of_tile_zero hs, State.usesColour_of_tile_zero ht]
    · exact (other he).usesColour col

/-! ## A sprite write before its DMA -/

section
variable (s : State) (off : BitVec 17) (data mask : Word)

/-- A store to the live sprite copy leaves the words of every other buffer (R152). -/
theorem State.storeMasked_sprLive_wordAt {sp : Space} (h : sp ≠ .sprLive) (w : Nat) :
    (s.storeMasked .sprLive off data mask).wordAt sp w = s.wordAt sp w :=
  s.storeMasked_wordAt_of_ne data mask fun he => absurd he h

/-- A store to the live sprite copy leaves the render plan (R239, R300). -/
theorem State.storeMasked_sprLive_renderPlan :
    (s.storeMasked .sprLive off data mask).renderPlan = s.renderPlan := by
  have cfg := s.storeMasked_cfg .sprLive off data mask
  have frame := s.storeMasked_frame .sprLive off data mask
  have word (sp : Space) (h : sp ≠ .sprLive) := s.storeMasked_sprLive_wordAt off data mask h
  have scroll (L : Layer) : (s.storeMasked .sprLive off data mask).resolveScroll L = s.resolveScroll L :=
    (SameScrollInputs.of_block cfg (word (.rs L) nofun) (word (.ctrl _) nofun)).resolveScroll
  have region := State.region_congr cfg (word (.ctrl .c0) nofun)
  have cells := State.drawSprites_congr cfg frame (word .sprBuf nofun)
  have flip : (s.storeMasked .sprLive off data mask).flip = s.flip := by
    rw [State.flip_eq, word (.ctrl .c1) nofun, State.flip_eq]
  simp only [State.renderPlan, State.renderPasses, State.layerPass, State.spritePass, scroll, region, cells, flip, cfg,
    frame]

/-- A store to the live sprite copy leaves the used colours (R239, R300). -/
theorem State.storeMasked_sprLive_usedColours :
    (s.storeMasked .sprLive off data mask).usedColours = s.usedColours := by
  have cfg := s.storeMasked_cfg .sprLive off data mask
  refine State.usedColours_congr cfg fun col e => SameSprite.usesColour ?_ col
  exact .of_words cfg (s.storeMasked_frame _ _ _ _) fun f _ =>
    s.storeMasked_sprLive_wordAt off data mask (sp := .sprBuf) nofun _

end

/-- Settles O39: the write is a store to the live copy, which the frame does not read; the DMA copies the live words. -/
theorem spriteWriteWaitsForDma : Obligations.SpriteWriteWaitsForDma := by
  intro s t off data mask h
  obtain ⟨-, rfl⟩ := guardMask_eq_next.1 h
  obtain ⟨u, hu, words, -⟩ := dmaSnapshotsSprites (s.storeMasked .sprLive off data mask) 0#16 0xFFFF#16 rfl
  exact ⟨s.storeMasked_sprLive_renderPlan off data mask, s.storeMasked_sprLive_usedColours off data mask, u, hu, words⟩

/-! ## The draw call under flip -/

/-- The draw call under flip covers the mirror of what the cell covers (R238). -/
theorem drawCall_covers_mirror (c : Cell) {sx sy : Nat} (hx : sx ≤ 255) (hy : sy ≤ 255) :
    (drawCall true c).covers (255 - sx) (255 - sy) = c.covers sx sy := by
  simp only [Cell.covers, drawCall, if_true, decide_eq_decide]
  omega

/-- The draw call under flip has at the mirror of a covered position the cell's pen there (R238). -/
theorem drawCall_pen_mirror (rom : PenRom) {c : Cell} {sx sy : Nat} (hx : sx ≤ 255) (hy : sy ≤ 255)
    (hc : c.covers sx sy = true) : (drawCall true c).pen rom (255 - sx) (255 - sy) = c.pen rom sx sy := by
  obtain ⟨i, j, hi, hj, hi', hj'⟩ := (c.covers_iff sx sy).1 hc
  have mirror_x : (drawCall true c).x + (15 - i : Nat) = (255 - sx : Nat) := by
    simp only [drawCall, if_true]
    omega
  have mirror_y : (drawCall true c).y + (15 - j : Nat) = (255 - sy : Nat) := by
    simp only [drawCall, if_true]
    omega
  have not_flipped (f : Bool) {n : Nat} (hn : n < 16) :
      (if !f then 15 - (15 - n) else 15 - n) = if f then 15 - n else n := by
    cases f with
    | false => exact Nat.sub_sub_self (Nat.le_of_lt_succ hn)
    | true => rfl
  rw [Cell.pen_of_offset rom mirror_x mirror_y, Cell.pen_of_offset rom hi' hj']
  simp only [drawCall, if_true, not_flipped _ hi, not_flipped _ hj]

/-- The draw call under flip draws the mirror of the cell on the screen (R238, D31). -/
theorem drawCall_pixel_mirror (rom : PenRom) (base : Nat) (c : Cell) {sx sy : Nat} (hx : sx ≤ 255) (hy : sy ≤ 255) :
    (drawCall true c).pixel rom base (255 - sx) (255 - sy) = c.pixel rom base sx sy := by
  have covers := drawCall_covers_mirror c hx hy
  have on : onScreen sx sy = true := (onScreen_iff sx sy).2 ⟨hx, hy⟩
  have mirror_on : onScreen (255 - sx) (255 - sy) = true :=
    (onScreen_iff _ _).2 ⟨Nat.sub_le .., Nat.sub_le ..⟩
  by_cases hc : c.covers sx sy = true
  · rw [Cell.pixel_of_covers rom base on hc, Cell.pixel_of_covers rom base mirror_on (covers.trans hc),
      drawCall_pen_mirror rom hx hy hc]
    rfl
  · rw [Cell.pixel_of_not_covers rom base fun h => hc h.2,
      Cell.pixel_of_not_covers rom base fun h => hc (covers ▸ h.2)]

/-- Settles O59: the call's pixels are the mirror of the cell's, and its Y is 240 less the cell's. -/
theorem flippedDrawCallIsMirror : Obligations.FlippedDrawCallIsMirror := by
  intro rom base c sx sy hx hy
  refine ⟨rfl, drawCall_pixel_mirror rom base c hx hy, fun s e k => ?_⟩
  simp only [drawCall, State.spriteCell, if_true]
  omega

end Sys2Proof.Machine
end

section
/-! SUPPORT. The hold and runs of requests (60_exceptions.md): IRQ ends the hold, a held step takes the scheduler's first event
only, and a legal request always has a next state and leaves the others legal. -/

namespace Sys2Proof.Machine

/-! ## IRQ -/

/-- Ending a hold that is over already changes nothing (R264). -/
theorem State.releaseHost_of_not_held {s : State} (h : s.suspend = false) : s.releaseHost = s := by
  rw [State.releaseHost, ← h]

/-- Settles O41: IRQ is the end of the hold. -/
theorem irqEndsTheHold : Obligations.IrqEndsTheHold := fun s =>
  ⟨s.releaseHost, rfl, s.releaseHost_suspend, s.releaseHost_keeps, State.releaseHost_of_not_held⟩

/-! ## The held step -/

/-- A step with no request to take leaves the state (R12, R265). -/
theorem step_of_no_request {s : State} (h : nextRequest s.suspend s.reqs = none) : step s = .next s := by
  simp only [step, h]

/-- Under the hold the request taken next is the scheduler's first event (R265). -/
theorem State.nextRequest_of_held {s : State} (h : s.suspend = true) :
    nextRequest s.suspend s.reqs = firstEvent s.reqs := by
  rw [h]
  rfl

/-- A scheduler request is one of the event window (R12, R92). -/
theorem fromScheduler_iff (r : Request) : fromScheduler r = true ↔ (winField r.word).toNat = 0x1F := by
  rw [fromScheduler, beq_iff_eq, toNat_eq_iff_eventWin]

/-- Settles O7: the scheduler's first event is taken from between the host's requests, and host requests alone hold none. -/
theorem suspendedHostGetsNoStep : Obligations.SuspendedHostGetsNoStep := by
  refine ⟨fromScheduler_iff, fun s hs => ⟨fun host => ?_, fun held e rest i hq host he hd => ?_,
    ⟨_, rfl, s.releaseHost_suspend⟩, ⟨_, rfl, s.resetDevice_suspend⟩⟩⟩
  · exact step_of_no_request (by rw [State.nextRequest_of_held hs, firstEvent_host host])
  · exact step_of_instr (by rw [State.nextRequest_of_held hs, hq, firstEvent_append host he]) hd

/-! ## A run of legal requests -/

/-- An instruction that passes the checks made at execution has a next state: a write by its lane mask, PATCH by the patch
condition, and a read or another event always (R65, R121, R260). -/
theorem exec_of_executable {i : Instr} {s : State} (h : Instr.Executable s.cfg i) : ∃ t, exec i s = .next t := by
  obtain ⟨mask_ok, patch_ok⟩ := h
  cases hm : i.laneMask with
  | some m =>
    obtain ⟨-, -, completes⟩ := writesNeedALaneMask
    exact completes i s m hm (mask_ok m hm)
  | none =>
    cases i with
    | lbw | plw | srw | tdw | rsw | ctw | dma | slw => cases hm
    | prd | plr | srr | tdr | rsr | render | irq | reset => exact ⟨_, rfl⟩
    | patch =>
      obtain ⟨-, he⟩ | ⟨-, -, he⟩ | ⟨hb, hp, -⟩ := execPatch_cases s
      · exact ⟨_, he⟩
      · exact ⟨_, he⟩
      · exact absurd (patch_ok rfl hb) (by simp [hp])

/-- Executing an instruction leaves the requests and the configuration, so a safe state stays safe. -/
theorem exec_safe {i : Instr} {s t : State} (hs : s.Safe) (h : exec i s = .next t) : t.Safe := by
  have cfg_kept : t.cfg = s.cfg := exec_keeps h .cfg (by cases i <;> simp [Instr.changes])
  have reqs_kept : t.reqs = s.reqs := exec_keeps h .reqs (by cases i <;> simp [Instr.changes])
  rwa [State.Safe, cfg_kept, reqs_kept]

/-- A step from a safe state answers a next state, and that state is safe (R11, R260). -/
theorem step_safe {s : State} (hs : s.Safe) : ∃ t, step s = .next t ∧ t.Safe := by
  cases hn : nextRequest s.suspend s.reqs with
  | none => exact ⟨s, step_of_no_request hn, hs⟩
  | some taken =>
    obtain ⟨r, rest⟩ := taken
    obtain ⟨taken_mem, rest_mem⟩ := nextRequest_mem hn
    obtain ⟨i, hd, hi⟩ := hs r taken_mem
    have rest_safe : (s.setReqs rest).Safe := fun q hq => hs q (rest_mem q hq)
    obtain ⟨t, ht⟩ := exec_of_executable (s := s.setReqs rest) hi
    exact ⟨t, (step_of_instr hn hd).trans ht, exec_safe rest_safe ht⟩

/-- Settles O8, by induction on the number of steps. -/
theorem legalRequestsNeverStop : Obligations.LegalRequestsNeverStop := by
  intro n
  induction n with
  | zero => exact fun s hs => ⟨s, core_run_zero s, hs⟩
  | succ n ih =>
    intro s hs
    obtain ⟨u, hu, hus⟩ := step_safe hs
    obtain ⟨t, ht, hts⟩ := ih u hus
    exact ⟨t, (core_run_succ n hu).trans ht, hts⟩

end Sys2Proof.Machine
end

section
/-! SUPPORT. The configuration record and the device reset (70_reset_and_hazards.md): no step writes the configuration, and
RESET leaves the words, the dirty bits and the fields that R290 names. -/

namespace Sys2Proof.Machine

/-! ## The configuration -/

/-- The configuration is no part that an instruction may change (R291). -/
theorem Instr.cfg_notMem_changes (i : Instr) : Part.cfg ∉ Instr.changes i := by
  cases i <;> simp [Instr.changes]

/-- An instruction leaves the configuration (R6, R291). -/
theorem exec_cfg {i : Instr} {s t : State} (h : exec i s = .next t) : t.cfg = s.cfg :=
  exec_keeps h .cfg (Instr.cfg_notMem_changes i)

/-- Settles O12: a step that takes no request leaves the state, any other executes one instruction, which leaves the
configuration. -/
theorem configurationIsImmutable : Obligations.ConfigurationIsImmutable := by
  intro s t h
  obtain ⟨-, rfl⟩ | ⟨r, rest, i, -, -, hx⟩ := step_cases h
  · rfl
  · calc t.cfg = (s.setReqs rest).cfg := exec_cfg hx
      _ = s.cfg := s.setReqs_cfg rest

/-! ## The device reset -/

/-- Every word of the loopback file is zero after a device reset, under either policy (R290). -/
theorem State.resetDevice_wordAt_lb (s : State) (w : Nat) : s.resetDevice.wordAt .lb w = 0#16 := by
  rw [State.wordAt, State.resetDevice_mem, if_pos rfl, Memory.readWord_blank_zero]

/-- Every word is zero after a device reset under `RESET_POLICY = ZERO` (R290): both fills of a buffer are zero. -/
theorem State.resetDevice_allWordsZero {s : State} (h : s.cfg.resetPolicy = .zero) : s.resetDevice.AllWordsZero := by
  intro sp w
  have fill_zero : (if sp = .lb then Fill.zero else resetFill s.cfg.resetPolicy s.draws sp) = .zero := by
    rw [h, resetFill, ite_self]
  rw [State.wordAt, State.resetDevice_mem, fill_zero, Memory.readWord_blank_zero]

/-- Every cell of every layer is dirty after a device reset (R290). -/
theorem State.resetDevice_isDirty (s : State) (L : Layer) {w : Nat} (hw : w < 2048) :
    s.resetDevice.isDirty L w = true := by
  rw [State.isDirty, State.resetDevice_dirty, BitVec.getLsbD_allOnes, decide_eq_true hw]

/-- Settles O42: RESET is the device reset. -/
theorem resetLeavesResetState : Obligations.ResetLeavesResetState := fun s =>
  ⟨s.resetDevice, rfl, s.resetDevice_wordAt_lb, State.resetDevice_allWordsZero, s.resetDevice_frame,
    s.resetDevice_suspend, fun L _ hw => s.resetDevice_isDirty L hw, s.resetDevice_usedSprColours, s.resetDevice_cfg,
    s.resetDevice_hist, s.resetDevice_img, s.resetDevice_reqs, s.resetDevice_readData⟩

end Sys2Proof.Machine
end
